-- ==== Sys2Proof/Machine/Assoc.lean ====
section
/-! DEFINITION. Finite maps with natural keys, held as lists in one canonical form, keys strictly rising: guest memory,
the STE cache (10_state.md R55) and the stream registry (R56). -/

namespace Sys2Proof.Machine

/-- The value under a key. -/
def Assoc.get? {α : Type} : List (Nat × α) → Nat → Option α
  | [], _ => none
  | (k, v) :: ps, x => if k = x then some v else Assoc.get? ps x

/-- The map with the key given the value. -/
def Assoc.set {α : Type} : List (Nat × α) → Nat → α → List (Nat × α)
  | [], x, y => [(x, y)]
  | (k, v) :: ps, x, y =>
    if x < k then (x, y) :: (k, v) :: ps
    else if x = k then (x, y) :: ps
    else (k, v) :: Assoc.set ps x y

/-- The map without the keys that `p` picks ("map removal", R55). -/
def Assoc.eraseIf {α : Type} (p : Nat → Bool) (m : List (Nat × α)) : List (Nat × α) :=
  m.filter (fun e => !p e.1)

/-- The map without the key. -/
def Assoc.erase {α : Type} (m : List (Nat × α)) (x : Nat) : List (Nat × α) :=
  Assoc.eraseIf (fun k => k == x) m

/-- The map with every value changed by `f`. -/
def Assoc.map {α : Type} (f : α → α) (m : List (Nat × α)) : List (Nat × α) :=
  List.map (fun e => (e.1, f e.2)) m

/-- The map with the value under one key changed by `f`, if there is one. -/
def Assoc.modify {α : Type} (m : List (Nat × α)) (x : Nat) (f : α → α) : List (Nat × α) :=
  List.map (fun e => (e.1, if e.1 = x then f e.2 else e.2)) m

/-- The canonical form: keys strictly rising. -/
def Assoc.sorted {α : Type} : List (Nat × α) → Bool
  | [] => true
  | e :: es => es.all (fun e' => decide (e.1 < e'.1)) && Assoc.sorted es

end Sys2Proof.Machine
end

