-- ==== Sys2Proof/Word.lean ====
section
/-! DEFINITION. The words of the block: bytes, guest-physical and input addresses, stream ids (00_scope.md R9, R11). -/

namespace Sys2Proof

/-- A byte of guest memory. -/
abbrev Byte := BitVec 8

/-- A 64-bit address; address arithmetic wraps modulo 2^64 (R11). -/
abbrev Addr := BitVec 64

/-- A stream id: 32 bits in every structure that holds one (30_encoding.md R118, R145). -/
abbrev StreamId := BitVec 32

end Sys2Proof
end

