-- ==== Sys2Proof/Config.lean ====
section
/-! DEFINITION. The parameters of 00_scope.md R8, as plain data that the machine holds and never changes, and the one
free value (93_implementation_defined.md U8). The default values stand in Machine/Defaults.lean. -/

namespace Sys2Proof

/-- The two security states, one Domain each (R34, R417). -/
inductive SecurityState
  | secure
  | nonSecure
  deriving DecidableEq, Repr

/-- The two stream-controller back-ends (R6, R341). -/
inductive Backend
  | software
  | hardwareAssisted
  deriving DecidableEq, Repr

/-- The registers of 10_state.md R35. -/
inductive RegName
  | idr0 | idr1 | cr0 | cr0ack | irqCtrl | irqCtrlAck | gerror | gerrorn
  | strtabBase | strtabBaseCfg | cmdqBase | cmdqProd | cmdqCons | eventqBase | eventqProd | eventqCons
  deriving DecidableEq, Repr

/-- `SKIP_SET_ON` (R333, D22): when the hardware-assisted controller sets its skip flag. -/
inductive SkipSetOn
  | permissionViolationOnly
  | everySuccessfulWalk
  deriving DecidableEq, Repr

/-- `GERROR_ACK_STYLE` (R366, D16): how a write to GERRORN acknowledges. -/
inductive AckStyle
  | toggleMatch
  | write1
  deriving DecidableEq, Repr

/-- One row of `REG_OFFSET` (R35): where a Domain's register lies in the register space, in bytes. -/
structure RegSlot where
  sec : SecurityState
  reg : RegName
  offset : Nat
  deriving DecidableEq, Repr

/-- The parameters of R8. The functions of R8 (`BACKEND`, `STREAM_SEC`, `STREAM_OF`, `SEC_COMPAT`, `OA_RESERVED_MASK`)
are finite tables, so that the configuration is plain data. -/
structure Config where
  /-- `SID_BITS` -/
  sidBits : Nat
  /-- `MAX_LEVEL` (D10) -/
  maxLevel : Nat
  /-- `START_LEVEL` (D11) -/
  startLevel : Nat
  /-- `MAX_CMDQ_SHIFT` (R162) -/
  maxCmdqShift : Nat
  /-- `MAX_EVTQ_SHIFT` (R162) -/
  maxEvtqShift : Nat
  /-- `REG_OFFSET` (R35, D2) -/
  regOffset : List RegSlot
  /-- `ID_VALUES.IDR0` (R50) -/
  idr0 : BitVec 32
  /-- `ID_VALUES.IDR1` (R51) -/
  idr1 : BitVec 32
  /-- `BACKEND`: the streams policed by the hardware-assisted back-end; every other one by the software back-end (R341). -/
  hardwareStreams : List StreamId
  /-- `STREAM_SEC`: the Secure streams; every other one is NonSecure (D20). -/
  secureStreams : List StreamId
  /-- `STREAM_OF`: the stream of a bus master; a master not listed has the stream of its own number (log 3). -/
  streamOf : List (Nat × StreamId)
  /-- `MEM_CAN_ABORT` (R96, D24) -/
  memCanAbort : Bool
  /-- `CMDQ_ERR_DEBOUNCE` (R257, D15) -/
  cmdqErrDebounce : Bool
  skipSetOn : SkipSetOn
  /-- `EXTRA_NOP_OPCODES` (R283, D13) -/
  extraNopOpcodes : List Byte
  /-- `HONOUR_CD_R` (R309, D18) -/
  honourCdR : Bool
  /-- `OA_RESERVED_MASK(cd)` when `cd.AA64 = 0` (R229, D12) -/
  oaReservedMask32 : Addr
  /-- `OA_RESERVED_MASK(cd)` when `cd.AA64 = 1` (R229, D12) -/
  oaReservedMask64 : Addr
  ackStyle : AckStyle
  /-- `SEC_COMPAT`: the pairs (executing Domain, tag) that may run (R253, D14). -/
  secCompat : List (SecurityState × SecurityState)
  /-- `CLEAR_WINDOWS_ON_ENABLE_CHANGE` (R321, D23) -/
  clearWindowsOnEnableChange : Bool
  deriving DecidableEq, Repr

/-- The free value of U8: which of several cached windows that contain an address serves an access. It has no body, so
no statement can rest on the choice (log 7). -/
opaque Config.overlapChoice : Nat → Nat

end Sys2Proof
end

