-- ==== Sys2Proof/Syntax.lean ====
section
/-! DEFINITION. The syntax: one constructor per row of spec/opcode_table.json, holding every field the row's layout
names, those that are decoded and ignored too (30_encoding.md R112, R116 to R122, R140 to R142). -/

namespace Sys2Proof

/-- The two formats of the opcode table: 16-byte commands and 8-byte page-table entries (R114, R140). -/
inductive Format
  | command
  | pageTableEntry
  deriving DecidableEq, Repr

/-- The attribute fields of a valid page-table entry that no rule reads (R141, R142). -/
structure PteAttrs where
  attrIndx : BitVec 3
  ns : Bool
  sh : BitVec 2
  af : Bool
  ng : Bool
  contiguous : Bool
  deriving DecidableEq, Repr

/-- The hierarchical controls of a Table entry, which no rule reads (R142). -/
structure PteHier where
  pxnTable : Bool
  xnTable : Bool
  apTable : BitVec 2
  nsTable : Bool
  deriving DecidableEq, Repr

/-- What the block executes: the commands of a command queue and the entries a page-table walk reads. -/
inductive Instr
  | cmdPrefetchConfig (ssec ssv : Bool) (substreamId : BitVec 20) (streamId : StreamId)
  | cmdPrefetchAddr (ssec ssv : Bool) (substreamId : BitVec 20) (streamId : StreamId) (size stride : BitVec 5)
      (address : BitVec 52)
  | cmdCfgiSte (ssec : Bool) (streamId : StreamId) (leaf : Bool)
  | cmdCfgiSteRange (ssec : Bool) (streamId : StreamId) (range : BitVec 5)
  | cmdTlbiNhAll (vmid asid : BitVec 16)
  | cmdTlbiNhAsid (vmid asid : BitVec 16)
  | cmdTlbiNhVa (vmid asid : BitVec 16) (leaf : Bool) (address : BitVec 52)
  | cmdTlbiNhVaa (vmid asid : BitVec 16) (leaf : Bool) (address : BitVec 52)
  | cmdTlbiEl3All (vmid asid : BitVec 16)
  | cmdTlbiEl3Va (vmid asid : BitVec 16) (leaf : Bool) (address : BitVec 52)
  | cmdTlbiEl2All (vmid asid : BitVec 16)
  | cmdTlbiEl2Asid (vmid asid : BitVec 16)
  | cmdTlbiEl2Va (vmid asid : BitVec 16) (leaf : Bool) (address : BitVec 52)
  | cmdTlbiEl2Vaa (vmid asid : BitVec 16) (leaf : Bool) (address : BitVec 52)
  | cmdTlbiS12Vmall (vmid asid : BitVec 16)
  | cmdTlbiS2Ipa (vmid asid : BitVec 16) (leaf : Bool) (address : BitVec 52)
  | cmdTlbiNsnhAll (vmid asid : BitVec 16)
  | cmdSync (cs : BitVec 2) (msiData : BitVec 32) (msiAddress : BitVec 50)
  | pteBlock (ap : BitVec 2) (pxn uxn : Bool) (outputAddress : BitVec 36) (attrs : PteAttrs)
  | pteTable (ap : BitVec 2) (pxn uxn : Bool) (outputAddress : BitVec 36) (attrs : PteAttrs) (hier : PteHier)
  | pteInvalid00
  | pteInvalid10
  deriving DecidableEq, Repr

/-- The format an instruction is encoded in. -/
def Instr.format : Instr → Format
  | .cmdPrefetchConfig .. | .cmdPrefetchAddr .. | .cmdCfgiSte .. | .cmdCfgiSteRange .. | .cmdTlbiNhAll ..
  | .cmdTlbiNhAsid .. | .cmdTlbiNhVa .. | .cmdTlbiNhVaa .. | .cmdTlbiEl3All .. | .cmdTlbiEl3Va .. | .cmdTlbiEl2All ..
  | .cmdTlbiEl2Asid .. | .cmdTlbiEl2Va .. | .cmdTlbiEl2Vaa .. | .cmdTlbiS12Vmall .. | .cmdTlbiS2Ipa ..
  | .cmdTlbiNsnhAll .. | .cmdSync .. => .command
  | .pteBlock .. | .pteTable .. | .pteInvalid00 | .pteInvalid10 => .pageTableEntry

end Sys2Proof
end

