-- ==== Sys2Proof/WellFormed.lean ====
section
/-! DEFINITION. What makes syntax, layouts and configurations well-formed: an instruction stands where its format is
read (R147); the fields of a layout lie inside the structure and do not overlap (30_encoding.md R113); the parameters of
R8 have values the rules make sense of (log 12). Field widths of instructions are in their types. -/

namespace Sys2Proof

/-- An instruction is well-formed for a place that holds instructions of format `f`: a command in a command queue, an
entry in a page table. -/
def Instr.wf (f : Format) (i : Instr) : Bool := decide (i.format = f)

/-- A layout: the bit offset and width of each field (R110, R111). -/
abbrev Layout := List (Nat × Nat)

/-- Two fields share no bit. -/
def Layout.apart (f g : Nat × Nat) : Bool := decide (f.1 + f.2 ≤ g.1) || decide (g.1 + g.2 ≤ f.1)

/-- R113: every field lies inside the structure of `bits` bits and no two overlap. -/
def Layout.wf (bits : Nat) : Layout → Bool
  | [] => true
  | f :: fs => decide (0 < f.2) && decide (f.1 + f.2 ≤ bits) && fs.all (Layout.apart f) && Layout.wf bits fs

/-- The width in bytes of a register (R35). -/
def RegName.bytes : RegName → Nat
  | .strtabBase | .cmdqBase | .eventqBase => 8
  | .idr0 | .idr1 | .cr0 | .cr0ack | .irqCtrl | .irqCtrlAck | .gerror | .gerrorn | .strtabBaseCfg | .cmdqProd
  | .cmdqCons | .eventqProd | .eventqCons => 4

/-- No two registers of the map share a byte. -/
def RegSlot.mapWf : List RegSlot → Bool
  | [] => true
  | r :: rs => rs.all (fun t => decide (r.offset + r.reg.bytes ≤ t.offset) || decide (t.offset + t.reg.bytes ≤ r.offset))
      && RegSlot.mapWf rs

/-- The bits of IDR0 that R52 requires to be 0: ATS 10, MSI 13, PRI 16, VATOS 20, ST_LEVEL 28:27. -/
def Config.unsupportedMask : BitVec 32 := 0x18112400#32

/-- The values of the parameters that the rules make sense of: a level to start at (D11), a last level at which every
shift of R216 stays below 64 bits, indices that fit the 20-bit register fields with their wrap bit (R45, R163), stream
ids that fit 32 bits, R52, and a register map without overlap (log 12). -/
def Config.wf (c : Config) : Bool :=
  decide (c.startLevel ≤ c.maxLevel) && decide (c.maxLevel ≤ 3) && decide (c.maxCmdqShift ≤ 19)
    && decide (c.maxEvtqShift ≤ 19) && decide (c.sidBits ≤ 32) && decide (c.idr0 &&& Config.unsupportedMask = 0)
    && RegSlot.mapWf c.regOffset

end Sys2Proof
end

