-- ==== Sys2Proof/Decode.lean ====
section
/-! DEFINITION. Reading and writing bit fields and bytes (30_encoding.md R9 of 00_scope.md, R110, R111), the layouts and
opcodes of commands and page-table entries (R114 to R122, R140 to R142; the positions are the spec's defaults D1, D13,
log 17), the decoder, total on any bytes, and the encoder. -/

namespace Sys2Proof

/-! ### Fields -/

/-- A field of `w` bits at bit offset `lo` of a structure (R111). -/
structure Field (w : Nat) where
  lo : Nat
  deriving DecidableEq, Repr

/-- The field's value: bits `lo+w-1 : lo` of the structure (R111). -/
def Field.get {w n : Nat} (f : Field w) (x : BitVec n) : BitVec w := x.extractLsb' f.lo w

/-- A structure that holds `v` in the field and 0 elsewhere: `value << o` (R111). -/
def Field.put {w n : Nat} (f : Field w) (v : BitVec w) : BitVec n := v.setWidth n <<< f.lo

/-- A one-bit field, read as a truth value. -/
def Field.flag {n : Nat} (f : Field 1) (x : BitVec n) : Bool := f.get x == 1#1

/-- A one-bit field, written from a truth value. -/
def Field.putFlag {n : Nat} (f : Field 1) (b : Bool) : BitVec n := f.put (BitVec.ofBool b)

/-- The structure with the field replaced and every other bit kept. -/
def Field.set {w n : Nat} (f : Field w) (v : BitVec w) (x : BitVec n) : BitVec n :=
  (x &&& ~~~(f.put (BitVec.allOnes w))) ||| f.put v

/-- The place of a field in a layout table (R113). -/
def Field.span {w : Nat} (f : Field w) : Nat × Nat := (f.lo, w)

/-! ### Bytes -/

/-- The little-endian integer of a byte sequence (R9, R81). -/
def leNat : List Byte → Nat
  | [] => 0
  | b :: bs => b.toNat + 256 * leNat bs

/-- `Bytes_n`: the `n` bytes of an integer, the lowest first (R12). -/
def bytesOf : Nat → Nat → List Byte
  | 0, _ => []
  | n + 1, v => BitVec.ofNat 8 v :: bytesOf n (v / 256)

/-! ### Sizes and opcodes -/

/-- `CMD_SIZE` (R8). -/
def cmdSize : Nat := 16

/-- `PTE_SIZE` (R8). -/
def pteSize : Nat := 8

/-- The bytes an instruction of a format takes (R147). -/
def Format.size : Format → Nat
  | .command => cmdSize
  | .pageTableEntry => pteSize

/-- The opcode byte of every command (R115). -/
def Instr.opcode : Instr → Byte
  | .cmdPrefetchConfig .. => 0x01#8
  | .cmdPrefetchAddr .. => 0x02#8
  | .cmdCfgiSte .. => 0x03#8
  | .cmdCfgiSteRange .. => 0x04#8
  | .cmdTlbiNhAll .. => 0x10#8
  | .cmdTlbiNhAsid .. => 0x11#8
  | .cmdTlbiNhVa .. => 0x12#8
  | .cmdTlbiNhVaa .. => 0x13#8
  | .cmdTlbiEl3All .. => 0x18#8
  | .cmdTlbiEl3Va .. => 0x1A#8
  | .cmdTlbiEl2All .. => 0x20#8
  | .cmdTlbiEl2Asid .. => 0x21#8
  | .cmdTlbiEl2Va .. => 0x22#8
  | .cmdTlbiEl2Vaa .. => 0x23#8
  | .cmdTlbiS12Vmall .. => 0x28#8
  | .cmdTlbiS2Ipa .. => 0x2A#8
  | .cmdTlbiNsnhAll .. => 0x30#8
  | .cmdSync .. => 0x46#8
  | .pteBlock .. | .pteTable .. | .pteInvalid00 | .pteInvalid10 => 0#8

/-! ### Layouts of commands (R114 to R122) -/

namespace CmdField
abbrev opcode : Field 8 := ⟨0⟩
abbrev ssec : Field 1 := ⟨10⟩
abbrev ssv : Field 1 := ⟨11⟩
abbrev substreamId : Field 20 := ⟨12⟩
abbrev streamId : Field 32 := ⟨32⟩
abbrev size : Field 5 := ⟨64⟩
abbrev stride : Field 5 := ⟨69⟩
abbrev range : Field 5 := ⟨64⟩
abbrev vmid : Field 16 := ⟨32⟩
abbrev asid : Field 16 := ⟨48⟩
abbrev leaf : Field 1 := ⟨64⟩
abbrev address : Field 52 := ⟨76⟩
abbrev cs : Field 2 := ⟨12⟩
abbrev msiData : Field 32 := ⟨32⟩
abbrev msiAddress : Field 50 := ⟨66⟩
end CmdField

/-- The layout that each command's opcode selects (R116 to R122), as a table (R113). -/
def commandLayout : Instr → Layout
  | .cmdPrefetchConfig .. =>
    [CmdField.opcode.span, CmdField.ssec.span, CmdField.ssv.span, CmdField.substreamId.span, CmdField.streamId.span]
  | .cmdPrefetchAddr .. =>
    [CmdField.opcode.span, CmdField.ssec.span, CmdField.ssv.span, CmdField.substreamId.span, CmdField.streamId.span,
     CmdField.size.span, CmdField.stride.span, CmdField.address.span]
  | .cmdCfgiSte .. => [CmdField.opcode.span, CmdField.ssec.span, CmdField.streamId.span, CmdField.leaf.span]
  | .cmdCfgiSteRange .. => [CmdField.opcode.span, CmdField.ssec.span, CmdField.streamId.span, CmdField.range.span]
  | .cmdTlbiNhAll .. | .cmdTlbiNhAsid .. | .cmdTlbiEl3All .. | .cmdTlbiEl2All .. | .cmdTlbiEl2Asid ..
  | .cmdTlbiS12Vmall .. | .cmdTlbiNsnhAll .. => [CmdField.opcode.span, CmdField.vmid.span, CmdField.asid.span]
  | .cmdTlbiNhVa .. | .cmdTlbiNhVaa .. | .cmdTlbiEl3Va .. | .cmdTlbiEl2Va .. | .cmdTlbiEl2Vaa .. | .cmdTlbiS2Ipa .. =>
    [CmdField.opcode.span, CmdField.vmid.span, CmdField.asid.span, CmdField.leaf.span, CmdField.address.span]
  | .cmdSync .. => [CmdField.opcode.span, CmdField.cs.span, CmdField.msiData.span, CmdField.msiAddress.span]
  | .pteBlock .. | .pteTable .. | .pteInvalid00 | .pteInvalid10 => []

/-! ### Layouts of page-table entries (R140 to R142) -/

namespace PteField
abbrev kind : Field 2 := ⟨0⟩
abbrev attrIndx : Field 3 := ⟨2⟩
abbrev ns : Field 1 := ⟨5⟩
abbrev ap : Field 2 := ⟨6⟩
abbrev sh : Field 2 := ⟨8⟩
abbrev af : Field 1 := ⟨10⟩
abbrev ng : Field 1 := ⟨11⟩
abbrev outputAddress : Field 36 := ⟨12⟩
abbrev contiguous : Field 1 := ⟨52⟩
abbrev pxn : Field 1 := ⟨53⟩
abbrev uxn : Field 1 := ⟨54⟩
abbrev pxnTable : Field 1 := ⟨59⟩
abbrev xnTable : Field 1 := ⟨60⟩
abbrev apTable : Field 2 := ⟨61⟩
abbrev nsTable : Field 1 := ⟨63⟩
end PteField

/-- The layout that each entry's kind selects (R140 to R142). -/
def pteLayout : Instr → Layout
  | .pteBlock .. => valid
  | .pteTable .. =>
    valid ++ [PteField.pxnTable.span, PteField.xnTable.span, PteField.apTable.span, PteField.nsTable.span]
  | .pteInvalid00 | .pteInvalid10 => [PteField.kind.span]
  | .cmdPrefetchConfig .. | .cmdPrefetchAddr .. | .cmdCfgiSte .. | .cmdCfgiSteRange .. | .cmdTlbiNhAll ..
  | .cmdTlbiNhAsid .. | .cmdTlbiNhVa .. | .cmdTlbiNhVaa .. | .cmdTlbiEl3All .. | .cmdTlbiEl3Va .. | .cmdTlbiEl2All ..
  | .cmdTlbiEl2Asid .. | .cmdTlbiEl2Va .. | .cmdTlbiEl2Vaa .. | .cmdTlbiS12Vmall .. | .cmdTlbiS2Ipa ..
  | .cmdTlbiNsnhAll .. | .cmdSync .. => []
where
  valid : Layout :=
    [PteField.kind.span, PteField.attrIndx.span, PteField.ns.span, PteField.ap.span, PteField.sh.span,
     PteField.af.span, PteField.ng.span, PteField.outputAddress.span, PteField.contiguous.span, PteField.pxn.span,
     PteField.uxn.span]

/-! ### The decoder -/

/-- Why a byte sequence is no instruction. -/
inductive DecodeError
  /-- The buffer is not as long as the structure (R110). -/
  | wrongLength (got : Nat)
  /-- An opcode outside the recognised set (R128). -/
  | unrecognisedOpcode (opcode : Byte)
  deriving DecidableEq, Repr

/-- The recognised commands: each opcode with the layout it selects (R115, R254: one explicit static table). Bits that
the layout does not name are ignored (R112). -/
def commandTable : List (Byte × (BitVec 128 → Instr)) :=
  [(0x01#8, fun x => .cmdPrefetchConfig (CmdField.ssec.flag x) (CmdField.ssv.flag x)
      (CmdField.substreamId.get x) (CmdField.streamId.get x)),
   (0x02#8, fun x => .cmdPrefetchAddr (CmdField.ssec.flag x) (CmdField.ssv.flag x)
      (CmdField.substreamId.get x) (CmdField.streamId.get x) (CmdField.size.get x) (CmdField.stride.get x)
      (CmdField.address.get x)),
   (0x03#8, fun x => .cmdCfgiSte (CmdField.ssec.flag x) (CmdField.streamId.get x) (CmdField.leaf.flag x)),
   (0x04#8, fun x => .cmdCfgiSteRange (CmdField.ssec.flag x) (CmdField.streamId.get x) (CmdField.range.get x)),
   (0x10#8, fun x => .cmdTlbiNhAll (CmdField.vmid.get x) (CmdField.asid.get x)),
   (0x11#8, fun x => .cmdTlbiNhAsid (CmdField.vmid.get x) (CmdField.asid.get x)),
   (0x12#8, fun x => .cmdTlbiNhVa (CmdField.vmid.get x) (CmdField.asid.get x) (CmdField.leaf.flag x)
      (CmdField.address.get x)),
   (0x13#8, fun x => .cmdTlbiNhVaa (CmdField.vmid.get x) (CmdField.asid.get x) (CmdField.leaf.flag x)
      (CmdField.address.get x)),
   (0x18#8, fun x => .cmdTlbiEl3All (CmdField.vmid.get x) (CmdField.asid.get x)),
   (0x1A#8, fun x => .cmdTlbiEl3Va (CmdField.vmid.get x) (CmdField.asid.get x) (CmdField.leaf.flag x)
      (CmdField.address.get x)),
   (0x20#8, fun x => .cmdTlbiEl2All (CmdField.vmid.get x) (CmdField.asid.get x)),
   (0x21#8, fun x => .cmdTlbiEl2Asid (CmdField.vmid.get x) (CmdField.asid.get x)),
   (0x22#8, fun x => .cmdTlbiEl2Va (CmdField.vmid.get x) (CmdField.asid.get x) (CmdField.leaf.flag x)
      (CmdField.address.get x)),
   (0x23#8, fun x => .cmdTlbiEl2Vaa (CmdField.vmid.get x) (CmdField.asid.get x) (CmdField.leaf.flag x)
      (CmdField.address.get x)),
   (0x28#8, fun x => .cmdTlbiS12Vmall (CmdField.vmid.get x) (CmdField.asid.get x)),
   (0x2A#8, fun x => .cmdTlbiS2Ipa (CmdField.vmid.get x) (CmdField.asid.get x) (CmdField.leaf.flag x)
      (CmdField.address.get x)),
   (0x30#8, fun x => .cmdTlbiNsnhAll (CmdField.vmid.get x) (CmdField.asid.get x)),
   (0x46#8, fun x => .cmdSync (CmdField.cs.get x) (CmdField.msiData.get x) (CmdField.msiAddress.get x))]

/-- Decodes the 128 bits of a command: the opcode byte selects the layout (R114). -/
def decodeCommandWord (x : BitVec 128) : Except DecodeError Instr :=
  match commandTable.lookup (CmdField.opcode.get x) with
  | some read => .ok (read x)
  | none => .error (.unrecognisedOpcode (CmdField.opcode.get x))

/-- The ignored attributes of a valid entry (R141, R142). -/
def decodeAttrs (x : BitVec 64) : PteAttrs :=
  { attrIndx := PteField.attrIndx.get x, ns := PteField.ns.flag x, sh := PteField.sh.get x, af := PteField.af.flag x,
    ng := PteField.ng.flag x, contiguous := PteField.contiguous.flag x }

/-- The ignored hierarchical controls of a Table entry (R142). -/
def decodeHier (x : BitVec 64) : PteHier :=
  { pxnTable := PteField.pxnTable.flag x, xnTable := PteField.xnTable.flag x, apTable := PteField.apTable.get x,
    nsTable := PteField.nsTable.flag x }

/-- Decodes the 64 bits of a page-table entry: the low two bits select the shape (R140, R218). -/
def decodePteWord (x : BitVec 64) : Instr :=
  let kind := PteField.kind.get x
  if kind = 0b01#2 then
    .pteBlock (PteField.ap.get x) (PteField.pxn.flag x) (PteField.uxn.flag x) (PteField.outputAddress.get x)
      (decodeAttrs x)
  else if kind = 0b11#2 then
    .pteTable (PteField.ap.get x) (PteField.pxn.flag x) (PteField.uxn.flag x) (PteField.outputAddress.get x)
      (decodeAttrs x) (decodeHier x)
  else if kind = 0b00#2 then .pteInvalid00
  else .pteInvalid10

/-- Decodes a buffer of the given format (R110). -/
def decode (f : Format) (bs : List Byte) : Except DecodeError Instr :=
  if bs.length = f.size then
    match f with
    | .command => decodeCommandWord (BitVec.ofNat 128 (leNat bs))
    | .pageTableEntry => .ok (decodePteWord (BitVec.ofNat 64 (leNat bs)))
  else .error (.wrongLength bs.length)

/-! ### The encoder -/

/-- The bits of a command (R111): its opcode and its fields at their places, 0 elsewhere. -/
def commandBits (i : Instr) : BitVec 128 :=
  CmdField.opcode.put i.opcode ||| fields i
where
  tlbi (vmid asid : BitVec 16) : BitVec 128 := CmdField.vmid.put vmid ||| CmdField.asid.put asid
  tlbiVa (vmid asid : BitVec 16) (leaf : Bool) (address : BitVec 52) : BitVec 128 :=
    CmdField.vmid.put vmid ||| CmdField.asid.put asid ||| CmdField.leaf.putFlag leaf ||| CmdField.address.put address
  fields : Instr → BitVec 128
  | .cmdPrefetchConfig ssec ssv substreamId streamId =>
    CmdField.ssec.putFlag ssec ||| CmdField.ssv.putFlag ssv
      ||| CmdField.substreamId.put substreamId ||| CmdField.streamId.put streamId
  | .cmdPrefetchAddr ssec ssv substreamId streamId size stride address =>
    CmdField.ssec.putFlag ssec ||| CmdField.ssv.putFlag ssv ||| CmdField.substreamId.put substreamId
      ||| CmdField.streamId.put streamId ||| CmdField.size.put size ||| CmdField.stride.put stride
      ||| CmdField.address.put address
  | .cmdCfgiSte ssec streamId leaf =>
    CmdField.ssec.putFlag ssec
      ||| CmdField.streamId.put streamId ||| CmdField.leaf.putFlag leaf
  | .cmdCfgiSteRange ssec streamId range =>
    CmdField.ssec.putFlag ssec
      ||| CmdField.streamId.put streamId ||| CmdField.range.put range
  | .cmdTlbiNhAll vmid asid => tlbi vmid asid
  | .cmdTlbiNhAsid vmid asid => tlbi vmid asid
  | .cmdTlbiNhVa vmid asid leaf address => tlbiVa vmid asid leaf address
  | .cmdTlbiNhVaa vmid asid leaf address => tlbiVa vmid asid leaf address
  | .cmdTlbiEl3All vmid asid => tlbi vmid asid
  | .cmdTlbiEl3Va vmid asid leaf address => tlbiVa vmid asid leaf address
  | .cmdTlbiEl2All vmid asid => tlbi vmid asid
  | .cmdTlbiEl2Asid vmid asid => tlbi vmid asid
  | .cmdTlbiEl2Va vmid asid leaf address => tlbiVa vmid asid leaf address
  | .cmdTlbiEl2Vaa vmid asid leaf address => tlbiVa vmid asid leaf address
  | .cmdTlbiS12Vmall vmid asid => tlbi vmid asid
  | .cmdTlbiS2Ipa vmid asid leaf address => tlbiVa vmid asid leaf address
  | .cmdTlbiNsnhAll vmid asid => tlbi vmid asid
  | .cmdSync cs msiData msiAddress =>
    CmdField.cs.put cs
      ||| CmdField.msiData.put msiData ||| CmdField.msiAddress.put msiAddress
  | .pteBlock .. | .pteTable .. | .pteInvalid00 | .pteInvalid10 => 0

/-- The bits of a page-table entry. -/
def pteBits (i : Instr) : BitVec 64 :=
  match i with
  | .pteBlock ap pxn uxn oa attrs => PteField.kind.put 0b01#2 ||| leaf ap pxn uxn oa attrs
  | .pteTable ap pxn uxn oa attrs hier =>
    PteField.kind.put 0b11#2 ||| leaf ap pxn uxn oa attrs ||| PteField.pxnTable.putFlag hier.pxnTable
      ||| PteField.xnTable.putFlag hier.xnTable ||| PteField.apTable.put hier.apTable
      ||| PteField.nsTable.putFlag hier.nsTable
  | .pteInvalid00 => PteField.kind.put 0b00#2
  | .pteInvalid10 => PteField.kind.put 0b10#2
  | .cmdPrefetchConfig .. | .cmdPrefetchAddr .. | .cmdCfgiSte .. | .cmdCfgiSteRange .. | .cmdTlbiNhAll ..
  | .cmdTlbiNhAsid .. | .cmdTlbiNhVa .. | .cmdTlbiNhVaa .. | .cmdTlbiEl3All .. | .cmdTlbiEl3Va .. | .cmdTlbiEl2All ..
  | .cmdTlbiEl2Asid .. | .cmdTlbiEl2Va .. | .cmdTlbiEl2Vaa .. | .cmdTlbiS12Vmall .. | .cmdTlbiS2Ipa ..
  | .cmdTlbiNsnhAll .. | .cmdSync .. => 0
where
  leaf (ap : BitVec 2) (pxn uxn : Bool) (oa : BitVec 36) (attrs : PteAttrs) : BitVec 64 :=
    PteField.attrIndx.put attrs.attrIndx ||| PteField.ns.putFlag attrs.ns ||| PteField.ap.put ap
      ||| PteField.sh.put attrs.sh ||| PteField.af.putFlag attrs.af ||| PteField.ng.putFlag attrs.ng
      ||| PteField.outputAddress.put oa ||| PteField.contiguous.putFlag attrs.contiguous
      ||| PteField.pxn.putFlag pxn ||| PteField.uxn.putFlag uxn

/-- The bytes of an instruction, lowest address first (R81, R111). -/
def encode (i : Instr) : List Byte :=
  match i.format with
  | .command => bytesOf cmdSize (commandBits i).toNat
  | .pageTableEntry => bytesOf pteSize (pteBits i).toNat

/-- The instruction that the decoder reads from the `nbits` bits `w` of a row of spec/opcode_table.json: a row of 128
bits is a command, a row of 64 bits a page-table entry; both are little-endian (R81), so bit 0 of the table's numbering
is bit 0 of the first byte. -/
def decodeTableWord (nbits w : Nat) : Option Instr :=
  if nbits = 128 then (decode .command (bytesOf cmdSize w)).toOption
  else if nbits = 64 then (decode .pageTableEntry (bytesOf pteSize w)).toOption
  else none

end Sys2Proof
end

