-- ==== Sys2Proof/Machine/Defaults.lean ====
section
/-! DEFINITION. The default values of the parameters (00_scope.md R8), with the example values of D35 for the open ones
(log 3). -/

namespace Sys2Proof.Machine

/-- The rows of R35: register and NonSecure offset, then the Secure offset (NonSecure + 0x8000, but for the event queue's
two index registers). -/
def registerMap : List (RegName × Nat × Nat) :=
  [(.idr0, 0x000, 0x8000), (.idr1, 0x004, 0x8004), (.cr0, 0x020, 0x8020), (.cr0ack, 0x024, 0x8024),
   (.irqCtrl, 0x050, 0x8050), (.irqCtrlAck, 0x054, 0x8054), (.gerror, 0x060, 0x8060), (.gerrorn, 0x064, 0x8064),
   (.strtabBase, 0x080, 0x8080), (.strtabBaseCfg, 0x088, 0x8088), (.cmdqBase, 0x090, 0x8090),
   (.cmdqProd, 0x098, 0x8098), (.cmdqCons, 0x09C, 0x809C), (.eventqBase, 0x0A0, 0x80A0),
   (.eventqProd, 0x100A8, 0x80A8), (.eventqCons, 0x100AC, 0x80AC)]

/-- The default of `REG_OFFSET` (R35, D2). -/
def defaultRegOffset : List RegSlot :=
  registerMap.map (fun r => ⟨.nonSecure, r.1, r.2.1⟩) ++ registerMap.map (fun r => ⟨.secure, r.1, r.2.2⟩)

/-- The default value of every parameter. The open ones (D35) take the example values of 95_test_vectors.md; IDR0 is 0
and IDR1 holds those values at the default places of R51 (log 3). -/
def defaultConfig : Config where
  sidBits := 8
  maxLevel := 3
  startLevel := 0
  maxCmdqShift := 8
  maxEvtqShift := 8
  regOffset := defaultRegOffset
  idr0 := 0#32
  idr1 := 0x01080008#32
  hardwareStreams := []
  secureStreams := []
  streamOf := []
  memCanAbort := false
  cmdqErrDebounce := false
  skipSetOn := .permissionViolationOnly
  extraNopOpcodes := []
  honourCdR := false
  oaReservedMask32 := 0x0000FF0000000000#64
  oaReservedMask64 := 0#64
  ackStyle := .toggleMatch
  secCompat := [(.secure, .secure), (.nonSecure, .nonSecure)]
  clearWindowsOnEnableChange := true

end Sys2Proof.Machine
end

