-- ==== Sys2Proof/Machine/State.lean ====
section
/-! DEFINITION. The state of the block (10_state.md), the reasons a step can stop, and the state after reset (R62, R430).
Every field is plain data. -/

namespace Sys2Proof.Machine

/-! ### Windows, stream table entries, context descriptors -/

/-- The kind of a bus access (R199, R320). -/
inductive AccessKind
  | read
  | write
  | execute
  deriving DecidableEq, Repr

/-- A permission set: a subset of {Read, Write, Execute} (R60). -/
structure Perms where
  read : Bool
  write : Bool
  exec : Bool
  deriving DecidableEq, Repr

/-- MMUWindow (R60): it covers the addresses `a` with `start ≤ a < stop` and maps `a` to `a + offset` modulo 2^64.
`stop` may be 2^64; `offset` is the signed offset in two's complement (R11). -/
structure Window where
  start : Addr
  stop : Nat
  offset : Addr
  perms : Perms
  deriving DecidableEq, Repr

/-- What an STE's `Config` selects (R131). -/
inductive SteConfig
  | abort
  | bypass
  | stage1
  | stage2
  | both
  deriving DecidableEq, Repr

/-- What an STE's `PRIVCFG` selects (R132). -/
inductive PrivCfg
  | useIncoming
  | unprivileged
  | privileged
  deriving DecidableEq, Repr

/-- The fields of an STE that are decoded and ignored (R130). -/
structure SteIgnored where
  s1Fmt : BitVec 2
  s1CdMax : BitVec 5
  s1Dss : BitVec 2
  s1StallD : Bool
  eats : BitVec 2
  strw : BitVec 2
  shCfg : BitVec 2
  nsCfg : BitVec 2
  instCfg : BitVec 2
  s2Vmid : BitVec 16
  s2T0sz : BitVec 6
  s2Sl0 : BitVec 2
  s2Tg : BitVec 2
  s2Ps : BitVec 3
  s2Aa64 : Bool
  s2Endi : Bool
  s2Ttb : BitVec 48
  deriving DecidableEq, Repr

/-- A decoded Stream Table Entry (R130). -/
structure Ste where
  v : Bool
  config : SteConfig
  s1ContextPtr : BitVec 46
  privCfg : PrivCfg
  ignored : SteIgnored
  deriving DecidableEq, Repr

/-- The fields of a CD that are decoded and ignored (R135). -/
structure CdIgnored where
  t0sz : BitVec 6
  ir0 : BitVec 2
  or0 : BitVec 2
  sh0 : BitVec 2
  endi : Bool
  t1sz : BitVec 6
  ir1 : BitVec 2
  or1 : BitVec 2
  sh1 : BitVec 2
  ips : BitVec 3
  affd : Bool
  wxn : Bool
  uwxn : Bool
  tbi : BitVec 2
  pan : Bool
  hd : Bool
  ha : Bool
  s : Bool
  a : Bool
  aset : Bool
  asid : BitVec 16
  mair0 : BitVec 32
  mair1 : BitVec 32
  deriving DecidableEq, Repr

/-- A decoded Context Descriptor (R135). -/
structure Cd where
  tg0 : BitVec 2
  epd0 : Bool
  tg1 : BitVec 2
  epd1 : Bool
  v : Bool
  aa64 : Bool
  r : Bool
  ttb0 : BitVec 48
  ttb1 : BitVec 48
  ignored : CdIgnored
  deriving DecidableEq, Repr

/-! ### Domains, controllers, memory -/

/-- A Domain (R34): its registers (R36 to R49), its cache of decoded STEs (R55) and its interrupt lines (R59). The
acknowledge registers CR0ACK and IRQ_CTRLACK are views (R37, R39); IDR0 and IDR1 stand in the configuration (R50, R51). -/
structure Domain where
  /-- CR0 (R36) -/
  cr0 : BitVec 32
  /-- IRQ_CTRL (R38) -/
  irqCtrl : BitVec 32
  /-- GERROR (R40) -/
  gerror : BitVec 32
  /-- GERRORN (R41) -/
  gerrorn : BitVec 32
  /-- STRTAB_BASE (R42) -/
  strtabBase : BitVec 64
  /-- STRTAB_BASE_CFG (R43) -/
  strtabBaseCfg : BitVec 32
  /-- CMDQ_BASE (R44) -/
  cmdqBase : BitVec 64
  /-- CMDQ_PROD (R45) -/
  cmdqProd : BitVec 32
  /-- CMDQ_CONS (R46): its RD field is the block's program counter (R32) -/
  cmdqCons : BitVec 32
  /-- EVENTQ_BASE (R47) -/
  eventqBase : BitVec 64
  /-- EVENTQ_PROD (R48) -/
  eventqProd : BitVec 32
  /-- EVENTQ_CONS (R49) -/
  eventqCons : BitVec 32
  /-- `SteCache[d]` (R55): by stream id, ids strictly rising -/
  steCache : List (Nat × Ste)
  /-- `GERR_LINE[d]` (R59) -/
  gerrLine : Bool
  /-- the pulses driven on `EVTQ_LINE[d]` so far (R59, R305); the model's own count (log 8) -/
  evtqPulses : Nat
  deriving DecidableEq, Repr

/-- A Stream Controller (R56 to R58). `win` holds no window twice; `skipped` is read by the hardware-assisted back-end. -/
structure Controller where
  sid : StreamId
  sec : SecurityState
  backend : Backend
  enabled : Bool
  win : List Window
  skipped : Bool
  deriving DecidableEq, Repr

/-- Guest memory: (address, byte) pairs, addresses strictly rising, no entry 0: an address not listed reads 0 (log 5). -/
abbrev Memory := List Host.Cell

/-! ### Operations under way and operations to come -/

/-- A bus access on its way through a controller (R199, R325, R332). -/
structure Request where
  sid : StreamId
  sec : SecurityState
  backend : Backend
  va : Addr
  kind : AccessKind
  record : Bool
  deriving DecidableEq, Repr

/-- The local variables of a walk between two entry reads (R211): the access, the CD read for it, the privilege, the
level to read next, and the table base once an entry has given it (log 1). -/
structure Walk where
  req : Request
  cd : Cd
  priv : Bool
  level : Nat
  tableBase : Option Addr
  deriving DecidableEq, Repr

/-- What the block is in the middle of (R250, R211). -/
inductive Phase
  | idle
  | draining
  | walking
  deriving DecidableEq, Repr

/-- The top-level operations of R88, and what other agents do to guest memory between them (R84, R96). -/
inductive Input
  /-- `RegRead(d, NAME)` (R360) -/
  | regRead (d : SecurityState) (r : RegName)
  /-- `RegWrite(d, NAME, v)` (R360); a 32-bit register takes the low half of `v` -/
  | regWrite (d : SecurityState) (r : RegName) (v : BitVec 64)
  /-- a read of `size` bytes at an offset of the register space (R35, R53) -/
  | busRead (offset size : Nat)
  /-- a write of `size` bytes at an offset of the register space (R35, R53) -/
  | busWrite (offset size : Nat) (v : BitVec 64)
  /-- a bus access of a master (R325, R330) -/
  | access (master : Nat) (va : Addr) (kind : AccessKind)
  /-- `Register(sid)` (R340) -/
  | attach (sid : StreamId)
  /-- `Unregister(sid)` (R340) -/
  | detach (sid : StreamId)
  /-- `Reset()` (R431) -/
  | reset
  /-- a store to guest memory that does not come from the block (R84) -/
  | store (addr : Addr) (bytes : List Byte)
  /-- the address ranges whose accesses fail from now on, when `MEM_CAN_ABORT` (R96, log 10) -/
  | memFaults (ranges : List (Nat × Nat))
  deriving DecidableEq, Repr

/-- What the last completed operation answered (R320, R360). -/
inductive Response
  | none
  /-- a register read (R361) -/
  | value (v : BitVec 64)
  /-- an operation that answers nothing is complete -/
  | done
  /-- perform the access at this guest-physical address (R95, R320) -/
  | allow (pa : Addr)
  | deny
  | retry
  | externalAbort
  deriving DecidableEq, Repr

/-- The state of one SMMU instance (R30) with its configuration, guest memory, and the operations under way and to come. -/
structure State where
  /-- the parameters (R8), which no step changes (log 3) -/
  cfg : Config
  secure : Domain
  nonSecure : Domain
  /-- `Ctl` (R56): by stream id, ids strictly rising -/
  ctls : List (Nat × Controller)
  mem : Memory
  /-- the address ranges `[lo, hi)` whose accesses fail when `MEM_CAN_ABORT` (R96, log 10) -/
  failing : List (Nat × Nat)
  phase : Phase
  /-- the Domain whose interpreter drains or drained last (R252) -/
  cur : SecurityState
  /-- the walk under way, or the last one (R211) -/
  walk : Walk
  /-- the operations to come, the first to act first (log 2) -/
  inputs : List Input
  response : Response
  /-- which free value comes next (U8, log 7) -/
  freeCount : Nat
  deriving DecidableEq, Repr

/-! ### Stops -/

/-- Why the machine could stop with a fault. Nothing in the block is fatal (R424). -/
inductive Fault
  /-- `ProgrammingError` (R12, R170, R398): a queue operation on a queue of the wrong role. Raised by nothing: the roles
  are told apart by the operations' types, as R170 asks. Safe. -/
  | programmingError
  deriving DecidableEq, Repr

/-- Why the machine could have no meaning for what it is asked. No instruction is refused; the named refusals are about
what a collaborator asks outside the model's domain. -/
inductive Refusal
  /-- An instruction without a meaning, raised by no arm of `exec`. Safe. -/
  | notModelled (mnemonic : String)
  /-- A register access narrower or wider than the register, or misaligned, raised by `busRead` and `busWrite`
  (R83, R360, D6, U19). Safe. -/
  | partialRegisterAccess
  /-- `attach` of a stream that has a controller (R340, D33). Safe. -/
  | streamAlreadyRegistered
  /-- `detach` of a stream that has no controller (R340, D33). Safe. -/
  | streamNotRegistered
  /-- `access` by a master whose stream has no controller: no such access reaches the block (R320, log 14). Safe. -/
  | noController
  deriving DecidableEq, Repr

/-! ### Reset -/

/-- A Domain at creation: every register 0, the cache empty, the lines inactive (R62, R430). -/
def Domain.reset : Domain where
  cr0 := 0
  irqCtrl := 0
  gerror := 0
  gerrorn := 0
  strtabBase := 0
  strtabBaseCfg := 0
  cmdqBase := 0
  cmdqProd := 0
  cmdqCons := 0
  eventqBase := 0
  eventqProd := 0
  eventqCons := 0
  steCache := []
  gerrLine := false
  evtqPulses := 0

/-- A Context Descriptor of zeros. -/
def Cd.zero : Cd where
  tg0 := 0
  epd0 := false
  tg1 := 0
  epd1 := false
  v := false
  aa64 := false
  r := false
  ttb0 := 0
  ttb1 := 0
  ignored := {
    t0sz := 0, ir0 := 0, or0 := 0, sh0 := 0, endi := false, t1sz := 0, ir1 := 0, or1 := 0, sh1 := 0, ips := 0,
    affd := false, wxn := false, uwxn := false, tbi := 0, pan := false, hd := false, ha := false, s := false, a := false,
    aset := false, asid := 0, mair0 := 0, mair1 := 0 }

/-- The walk field before any walk: all zero (log 6). -/
def Walk.zero : Walk where
  req := { sid := 0, sec := .nonSecure, backend := .software, va := 0, kind := .read, record := true }
  cd := Cd.zero
  priv := true
  level := 0
  tableBase := none

/-- The block right after creation and reset (R62, R430, R431): every register 0 but the identification registers, the
caches and the registry empty, nothing under way and nothing asked. -/
def State.reset : State where
  cfg := defaultConfig
  secure := Domain.reset
  nonSecure := Domain.reset
  ctls := []
  mem := []
  failing := []
  phase := .idle
  cur := .nonSecure
  walk := Walk.zero
  inputs := []
  response := .none
  freeCount := 0

end Sys2Proof.Machine
end

