-- ==== Sys2Proof/Machine/Layouts.lean ====
section
/-! DEFINITION. The layouts of the structures in guest memory other than commands and page-table entries (30_encoding.md
R130 to R136, R145, R146) and of the registers (10_state.md R36 to R49), with their decoders and the event encoder. Bit
positions are the spec's defaults D1, D2, D5 (log 17). -/

namespace Sys2Proof.Machine

/-! ### Stream Table Entry (R130 to R132) -/

namespace SteField
abbrev v : Field 1 := ⟨0⟩
abbrev config : Field 3 := ⟨1⟩
abbrev s1Fmt : Field 2 := ⟨4⟩
abbrev s1ContextPtr : Field 46 := ⟨6⟩
abbrev s1CdMax : Field 5 := ⟨59⟩
abbrev s1Dss : Field 2 := ⟨64⟩
abbrev s1StallD : Field 1 := ⟨91⟩
abbrev eats : Field 2 := ⟨92⟩
abbrev strw : Field 2 := ⟨94⟩
abbrev shCfg : Field 2 := ⟨108⟩
abbrev nsCfg : Field 2 := ⟨110⟩
abbrev privCfg : Field 2 := ⟨112⟩
abbrev instCfg : Field 2 := ⟨114⟩
abbrev s2Vmid : Field 16 := ⟨128⟩
abbrev s2T0sz : Field 6 := ⟨160⟩
abbrev s2Sl0 : Field 2 := ⟨166⟩
abbrev s2Tg : Field 2 := ⟨174⟩
abbrev s2Ps : Field 3 := ⟨176⟩
abbrev s2Aa64 : Field 1 := ⟨179⟩
abbrev s2Endi : Field 1 := ⟨180⟩
abbrev s2Ttb : Field 48 := ⟨196⟩
end SteField

/-- The layout of the STE (R130, R113). -/
def steLayout : Layout :=
  [SteField.v.span, SteField.config.span, SteField.s1Fmt.span, SteField.s1ContextPtr.span, SteField.s1CdMax.span,
   SteField.s1Dss.span, SteField.s1StallD.span, SteField.eats.span, SteField.strw.span, SteField.shCfg.span,
   SteField.nsCfg.span, SteField.privCfg.span, SteField.instCfg.span, SteField.s2Vmid.span, SteField.s2T0sz.span,
   SteField.s2Sl0.span, SteField.s2Tg.span, SteField.s2Ps.span, SteField.s2Aa64.span, SteField.s2Endi.span,
   SteField.s2Ttb.span]

/-- `STE_SIZE` (R8). -/
def steSize : Nat := 64

/-- `Config` values (R131). -/
def decodeSteConfig (c : BitVec 3) : SteConfig :=
  if c = 0b100#3 then .bypass
  else if c = 0b101#3 then .stage1
  else if c = 0b110#3 then .stage2
  else if c = 0b111#3 then .both
  else .abort

/-- `PRIVCFG` values (R132). -/
def decodePrivCfg (c : BitVec 2) : PrivCfg :=
  if c = 0b10#2 then .unprivileged
  else if c = 0b11#2 then .privileged
  else .useIncoming

/-- Decodes the 512 bits of an STE (R130); the endianness bit S2ENDI has no effect (R81). -/
def decodeSteWord (x : BitVec 512) : Ste where
  v := SteField.v.flag x
  config := decodeSteConfig (SteField.config.get x)
  s1ContextPtr := SteField.s1ContextPtr.get x
  privCfg := decodePrivCfg (SteField.privCfg.get x)
  ignored := {
    s1Fmt := SteField.s1Fmt.get x, s1CdMax := SteField.s1CdMax.get x, s1Dss := SteField.s1Dss.get x,
    s1StallD := SteField.s1StallD.flag x, eats := SteField.eats.get x, strw := SteField.strw.get x,
    shCfg := SteField.shCfg.get x, nsCfg := SteField.nsCfg.get x, instCfg := SteField.instCfg.get x,
    s2Vmid := SteField.s2Vmid.get x, s2T0sz := SteField.s2T0sz.get x, s2Sl0 := SteField.s2Sl0.get x,
    s2Tg := SteField.s2Tg.get x, s2Ps := SteField.s2Ps.get x, s2Aa64 := SteField.s2Aa64.flag x,
    s2Endi := SteField.s2Endi.flag x, s2Ttb := SteField.s2Ttb.get x }

/-- Decodes the bytes of an STE. -/
def decodeSte (bs : List Byte) : Ste := decodeSteWord (BitVec.ofNat 512 (leNat bs))

/-! ### Context Descriptor (R135, R136) -/

namespace CdField
abbrev t0sz : Field 6 := ⟨0⟩
abbrev tg0 : Field 2 := ⟨6⟩
abbrev ir0 : Field 2 := ⟨8⟩
abbrev or0 : Field 2 := ⟨10⟩
abbrev sh0 : Field 2 := ⟨12⟩
abbrev epd0 : Field 1 := ⟨14⟩
abbrev endi : Field 1 := ⟨15⟩
abbrev t1sz : Field 6 := ⟨16⟩
abbrev tg1 : Field 2 := ⟨22⟩
abbrev ir1 : Field 2 := ⟨24⟩
abbrev or1 : Field 2 := ⟨26⟩
abbrev sh1 : Field 2 := ⟨28⟩
abbrev epd1 : Field 1 := ⟨30⟩
abbrev v : Field 1 := ⟨31⟩
abbrev ips : Field 3 := ⟨32⟩
abbrev affd : Field 1 := ⟨35⟩
abbrev wxn : Field 1 := ⟨36⟩
abbrev uwxn : Field 1 := ⟨37⟩
abbrev tbi : Field 2 := ⟨38⟩
abbrev pan : Field 1 := ⟨40⟩
abbrev aa64 : Field 1 := ⟨41⟩
abbrev hd : Field 1 := ⟨42⟩
abbrev ha : Field 1 := ⟨43⟩
abbrev s : Field 1 := ⟨44⟩
abbrev r : Field 1 := ⟨45⟩
abbrev a : Field 1 := ⟨46⟩
abbrev aset : Field 1 := ⟨47⟩
abbrev asid : Field 16 := ⟨48⟩
abbrev ttb0 : Field 48 := ⟨68⟩
abbrev ttb1 : Field 48 := ⟨132⟩
abbrev mair0 : Field 32 := ⟨192⟩
abbrev mair1 : Field 32 := ⟨224⟩
end CdField

/-- The layout of the CD (R135, R113). -/
def cdLayout : Layout :=
  [CdField.t0sz.span, CdField.tg0.span, CdField.ir0.span, CdField.or0.span, CdField.sh0.span, CdField.epd0.span,
   CdField.endi.span, CdField.t1sz.span, CdField.tg1.span, CdField.ir1.span, CdField.or1.span, CdField.sh1.span,
   CdField.epd1.span, CdField.v.span, CdField.ips.span, CdField.affd.span, CdField.wxn.span, CdField.uwxn.span,
   CdField.tbi.span, CdField.pan.span, CdField.aa64.span, CdField.hd.span, CdField.ha.span, CdField.s.span,
   CdField.r.span, CdField.a.span, CdField.aset.span, CdField.asid.span, CdField.ttb0.span, CdField.ttb1.span,
   CdField.mair0.span, CdField.mair1.span]

/-- `CD_SIZE` (R8). -/
def cdSize : Nat := 64

/-- Decodes the 512 bits of a CD (R135); the endianness bit ENDI has no effect (R81). -/
def decodeCdWord (x : BitVec 512) : Cd where
  tg0 := CdField.tg0.get x
  epd0 := CdField.epd0.flag x
  tg1 := CdField.tg1.get x
  epd1 := CdField.epd1.flag x
  v := CdField.v.flag x
  aa64 := CdField.aa64.flag x
  r := CdField.r.flag x
  ttb0 := CdField.ttb0.get x
  ttb1 := CdField.ttb1.get x
  ignored := {
    t0sz := CdField.t0sz.get x, ir0 := CdField.ir0.get x, or0 := CdField.or0.get x, sh0 := CdField.sh0.get x,
    endi := CdField.endi.flag x, t1sz := CdField.t1sz.get x, ir1 := CdField.ir1.get x, or1 := CdField.or1.get x,
    sh1 := CdField.sh1.get x, ips := CdField.ips.get x, affd := CdField.affd.flag x, wxn := CdField.wxn.flag x,
    uwxn := CdField.uwxn.flag x, tbi := CdField.tbi.get x, pan := CdField.pan.flag x, hd := CdField.hd.flag x,
    ha := CdField.ha.flag x, s := CdField.s.flag x, a := CdField.a.flag x, aset := CdField.aset.flag x,
    asid := CdField.asid.get x, mair0 := CdField.mair0.get x, mair1 := CdField.mair1.get x }

/-- Decodes the bytes of a CD. -/
def decodeCd (bs : List Byte) : Cd := decodeCdWord (BitVec.ofNat 512 (leNat bs))

/-- `TG0` (R136): the page-size shift, or nothing for the reserved encoding. -/
def tg0Shift (tg : BitVec 2) : Option Nat :=
  if tg = 0b00#2 then some 12
  else if tg = 0b01#2 then some 16
  else if tg = 0b10#2 then some 14
  else none

/-- `TG1` (R136): the page-size shift, or nothing for the reserved encoding. -/
def tg1Shift (tg : BitVec 2) : Option Nat :=
  if tg = 0b10#2 then some 12
  else if tg = 0b01#2 then some 14
  else if tg = 0b11#2 then some 16
  else none

/-! ### Event record (R145, R146) -/

/-- The fault classes that make an event (R146, R392 to R395). -/
inductive FaultKind
  | badStreamId
  | steFetch
  | badSte
  | cdFetch
  | badCd
  | walkFetch
  | translation
  | addrSize
  | permission
  deriving DecidableEq, Repr

/-- `EventID` values (R146). -/
def FaultKind.eventId : FaultKind → BitVec 8
  | .badStreamId => 0x02#8
  | .steFetch => 0x03#8
  | .badSte => 0x04#8
  | .cdFetch => 0x09#8
  | .badCd => 0x0A#8
  | .walkFetch => 0x0B#8
  | .translation => 0x10#8
  | .addrSize => 0x11#8
  | .permission => 0x13#8

/-- The kinds whose event records the access and not the stream id alone (R396). -/
def FaultKind.recordsAccess : FaultKind → Bool
  | .translation | .addrSize | .permission | .walkFetch => true
  | .badStreamId | .steFetch | .badSte | .cdFetch | .badCd => false

/-- An event record (R145). -/
structure Event where
  eventId : BitVec 8
  streamId : StreamId
  pnu : Bool
  ind : Bool
  rnw : Bool
  inputAddr : Addr
  deriving DecidableEq, Repr

namespace EvtField
abbrev eventId : Field 8 := ⟨0⟩
abbrev streamId : Field 32 := ⟨32⟩
abbrev pnu : Field 1 := ⟨97⟩
abbrev ind : Field 1 := ⟨98⟩
abbrev rnw : Field 1 := ⟨99⟩
abbrev inputAddr : Field 64 := ⟨128⟩
end EvtField

/-- The layout of the event record (R145, R113). -/
def eventLayout : Layout :=
  [EvtField.eventId.span, EvtField.streamId.span, EvtField.pnu.span, EvtField.ind.span, EvtField.rnw.span,
   EvtField.inputAddr.span]

/-- `EVENT_SIZE` (R8, D5). -/
def eventSize : Nat := 32

/-- The bits of an event record; every bit no field names is 0 (R112, R145). -/
def Event.bits (e : Event) : BitVec 256 :=
  EvtField.eventId.put e.eventId ||| EvtField.streamId.put e.streamId ||| EvtField.pnu.putFlag e.pnu
    ||| EvtField.ind.putFlag e.ind ||| EvtField.rnw.putFlag e.rnw ||| EvtField.inputAddr.put e.inputAddr

/-- The bytes of an event record. -/
def Event.bytes (e : Event) : List Byte := bytesOf eventSize e.bits.toNat

/-- `MakeEvent` (R396). -/
def makeEvent (k : FaultKind) (sid : StreamId) (va : Addr) (kind : AccessKind) (priv : Bool) : Event :=
  if k.recordsAccess then
    { eventId := k.eventId, streamId := sid, pnu := priv, ind := decide (kind = .execute),
      rnw := decide (kind = .read) || decide (kind = .execute), inputAddr := va }
  else { eventId := k.eventId, streamId := sid, pnu := false, ind := false, rnw := false, inputAddr := 0 }

/-! ### Register fields (R36 to R49) -/

namespace RegField
/-- CR0 (R36) -/
abbrev smmuen : Field 1 := ⟨0⟩
abbrev eventqen : Field 1 := ⟨2⟩
abbrev cmdqen : Field 1 := ⟨3⟩
/-- IRQ_CTRL (R38) -/
abbrev gerrorIrqen : Field 1 := ⟨0⟩
abbrev eventqIrqen : Field 1 := ⟨2⟩
/-- GERROR (R40) and GERRORN (R41) -/
abbrev cmdqErr : Field 1 := ⟨0⟩
/-- STRTAB_BASE (R42) -/
abbrev strtabAddr : Field 46 := ⟨6⟩
/-- STRTAB_BASE_CFG (R43) -/
abbrev strtabLog2Size : Field 6 := ⟨0⟩
abbrev strtabSplit : Field 5 := ⟨6⟩
abbrev strtabFmt : Field 2 := ⟨16⟩
/-- CMDQ_BASE (R44) and EVENTQ_BASE (R47) -/
abbrev queueLog2Size : Field 5 := ⟨0⟩
abbrev queueAddr : Field 47 := ⟨5⟩
/-- the index fields WR and RD (R45, R46, R48, R49) -/
abbrev index : Field 20 := ⟨0⟩
/-- CMDQ_CONS.ERR (R46) -/
abbrev err : Field 7 := ⟨24⟩
/-- EVENTQ_PROD.OVFLG (R48) and EVENTQ_CONS.OVACKFLG (R49) -/
abbrev overflow : Field 1 := ⟨31⟩
end RegField

/-- The bits of each 32-bit register that are fields; the others read 0 and, where the register is written by masking,
ignore writes (R36 to R49, R361). -/
def registerMask : RegName → BitVec 32
  | .idr0 | .idr1 => 0xFFFFFFFF#32
  | .cr0 | .cr0ack => 0xD#32
  | .irqCtrl | .irqCtrlAck => 0x5#32
  | .gerror | .gerrorn => 0x1#32
  | .strtabBaseCfg => 0x307FF#32
  | .cmdqProd => 0xFFFFF#32
  | .cmdqCons => 0x7F0FFFFF#32
  | .eventqProd | .eventqCons => 0x800FFFFF#32
  | .strtabBase | .cmdqBase | .eventqBase => 0xFFFFFFFF#32

end Sys2Proof.Machine
end

