-- ==== Sys2Proof/Machine/Flags.lean ====
section
/-! DEFINITION. The status flags of a Domain (10_state.md R33): their reads, the global-error condition and its line
(R40, R41, R59), the event overflow handshake (44_event_signalling.md R304). -/

namespace Sys2Proof.Machine

/-! ### Reading flags -/

/-- CR0.SMMUEN, the Domain's `Enabled` (R36). -/
def Domain.smmuen (D : Domain) : Bool := RegField.smmuen.flag D.cr0

/-- CR0.EVENTQEN (R36). -/
def Domain.eventqen (D : Domain) : Bool := RegField.eventqen.flag D.cr0

/-- CR0.CMDQEN (R36). -/
def Domain.cmdqen (D : Domain) : Bool := RegField.cmdqen.flag D.cr0

/-- IRQ_CTRL.GERROR_IRQEN (R38). -/
def Domain.gerrorIrqen (D : Domain) : Bool := RegField.gerrorIrqen.flag D.irqCtrl

/-- IRQ_CTRL.EVENTQ_IRQEN (R38). -/
def Domain.eventqIrqen (D : Domain) : Bool := RegField.eventqIrqen.flag D.irqCtrl

/-- GERROR.CMDQ_ERR: command error present (R40). -/
def Domain.cmdqErr (D : Domain) : Bool := RegField.cmdqErr.flag D.gerror

/-- GERRORN.CMDQ_ERR: command error acknowledged (R41). -/
def Domain.cmdqErrAck (D : Domain) : Bool := RegField.cmdqErr.flag D.gerrorn

/-- EVENTQ_PROD.OVFLG (R48). -/
def Domain.ovflg (D : Domain) : Bool := RegField.overflow.flag D.eventqProd

/-- EVENTQ_CONS.OVACKFLG (R49). -/
def Domain.ovackflg (D : Domain) : Bool := RegField.overflow.flag D.eventqCons

/-! ### The global error -/

/-- An error is active when the flag differs from its acknowledge (R40). -/
def Domain.errorActive (D : Domain) : Bool := D.cmdqErr != D.cmdqErrAck

/-- The level that `GERR_LINE` must have (R59). -/
def Domain.gerrLevel (D : Domain) : Bool := D.gerrorIrqen && D.errorActive

/-- Recomputes `GERR_LINE` (R59). -/
def Domain.refreshGerrLine (D : Domain) : Domain := { D with gerrLine := D.gerrLevel }

/-- Toggles GERROR.CMDQ_ERR (R257). -/
def Domain.toggleCmdqErr (D : Domain) : Domain :=
  { D with gerror := RegField.cmdqErr.set (BitVec.ofBool (!D.cmdqErr)) D.gerror }

/-! ### The event overflow -/

/-- An overflow is outstanding while OVFLG differs from OVACKFLG (R304). -/
def Domain.overflowOutstanding (D : Domain) : Bool := D.ovflg != D.ovackflg

/-- What an enqueue into a full queue does to the flag: it toggles only when no overflow is outstanding (R304). -/
def Domain.noteOverflow (D : Domain) : Domain :=
  if D.overflowOutstanding then D
  else { D with eventqProd := RegField.overflow.set (BitVec.ofBool (!D.ovflg)) D.eventqProd }

end Sys2Proof.Machine
end

