-- ==== Sys2Proof/Machine/Operands.lean ====
section
/-! DEFINITION. The operand forms: the address of a command (30_encoding.md R121), the output address of an entry (R141,
R142), the range of stream ids (R119, R263), the security tag (R114, R253), the queue views' geometry and indices
(40_queue_protocol.md R161 to R166), and the addresses the structures' pointers hold. -/

namespace Sys2Proof.Machine

/-! ### Fields that hold addresses (R111) -/

/-- The address of a TLB invalidate: `Address << 12` (R121). -/
def addressOperand (a : BitVec 52) : Addr := a.setWidth 64 <<< 12

/-- An entry's output address: `OutputAddress << 12` (R141, R142). -/
def outputAddressOf (a : BitVec 36) : Addr := a.setWidth 64 <<< 12

/-- The Context Descriptor's address: `S1ContextPtr << 6` (R130). -/
def Ste.cdAddr (e : Ste) : Addr := e.s1ContextPtr.setWidth 64 <<< 6

/-- TTBR0: `TTB0 << 4` (R135). -/
def Cd.ttbr0 (c : Cd) : Addr := c.ttb0.setWidth 64 <<< 4

/-- TTBR1: `TTB1 << 4` (R135). -/
def Cd.ttbr1 (c : Cd) : Addr := c.ttb1.setWidth 64 <<< 4

/-- `strtab_base`: `STRTAB_BASE.ADDR << 6` (R42). -/
def Domain.strtabAddr (D : Domain) : Addr := (RegField.strtabAddr.get D.strtabBase).setWidth 64 <<< 6

/-- The address of the STE of a stream: `strtab_base + 64 * sid` (R190). -/
def Domain.steAddr (D : Domain) (sid : StreamId) : Addr := D.strtabAddr + sid.setWidth 64 <<< 6

/-- `a` with its low `k` bits cleared: `a and not (2^k - 1)` (R161, R221, R224). -/
def alignDown (a : Addr) (k : Nat) : Addr := a >>> k <<< k

/-! ### Stream ids and security tags -/

/-- The stream ids a range command names: those that agree with `sid` above bit `range` (R119, R263). -/
def inStreamRange (sid : StreamId) (range : BitVec 5) (s : Nat) : Bool :=
  s >>> (range.toNat + 1) == sid.toNat >>> (range.toNat + 1)

/-- The security tag of a command that has one (R114, R253). -/
def securityTag (ssec : Bool) : SecurityState := if ssec then .secure else .nonSecure

/-- `SecCompatible` (R253): a command without a tag may run in both Domains. -/
def secCompatible (cfg : Config) (d : SecurityState) : Option SecurityState → Bool
  | none => true
  | some tag => cfg.secCompat.contains (d, tag)

/-! ### Queue indices (R163 to R166) -/

/-- An index with its wrap bit (R163). -/
structure QueuePos where
  index : Nat
  wrap : Bool
  deriving DecidableEq, Repr

/-- The position that an index field holds for a queue of `2^q` entries; higher bits are ignored (R163). -/
def queuePos (q : Nat) (f : BitVec 20) : QueuePos := { index := f.toNat % 2 ^ q, wrap := f.toNat.testBit q }

/-- The packed value `wrap ++ index` (R163, R166). -/
def QueuePos.pack (q : Nat) (p : QueuePos) : Nat := p.index + if p.wrap then 2 ^ q else 0

/-- `Adv` (R166). -/
def QueuePos.adv (q : Nat) (p : QueuePos) : QueuePos :=
  let index := (p.index + 1) % 2 ^ q
  { index := index, wrap := if index = 0 then !p.wrap else p.wrap }

/-- `IsEmpty` (R164). -/
def queueEmpty (produce consume : QueuePos) : Bool :=
  produce.index == consume.index && produce.wrap == consume.wrap

/-- `IsFull` (R165). -/
def queueFull (produce consume : QueuePos) : Bool :=
  produce.index == consume.index && produce.wrap != consume.wrap

/-- The index field with its position replaced by an advanced one; bits above the wrap bit become 0 (R163, R166). -/
def advancedField (q : Nat) (f : BitVec 20) : BitVec 20 := BitVec.ofNat 20 (((queuePos q f).adv q).pack q)

/-! ### Queue views (R54, R161, R162): they hold no state of their own -/

/-- The effective size shift: the requested one, clamped (R162). -/
def queueShift (base : BitVec 64) (maximum : Nat) : Nat := min (RegField.queueLog2Size.get base).toNat maximum

/-- The base address of a queue whose elements take `2^e` bytes: `ADDR << 5`, naturally aligned (R161). -/
def queueBase (base : BitVec 64) (q e : Nat) : Addr :=
  alignDown ((RegField.queueAddr.get base).setWidth 64 <<< 5) (q + e)

/-- The logarithm of `CMD_SIZE`. -/
def cmdSizeLog2 : Nat := 4

/-- The logarithm of `EVENT_SIZE`. -/
def eventSizeLog2 : Nat := 5

/-- The command queue's shift (R162). -/
def Domain.cmdqShift (cfg : Config) (D : Domain) : Nat := queueShift D.cmdqBase cfg.maxCmdqShift

/-- The event queue's shift (R162). -/
def Domain.evtqShift (cfg : Config) (D : Domain) : Nat := queueShift D.eventqBase cfg.maxEvtqShift

/-- CMDQ_PROD.WR (R45). -/
def Domain.cmdqWr (D : Domain) : BitVec 20 := RegField.index.get D.cmdqProd

/-- CMDQ_CONS.RD (R46), the program counter (R32). -/
def Domain.cmdqRd (D : Domain) : BitVec 20 := RegField.index.get D.cmdqCons

/-- EVENTQ_PROD.WR (R48). -/
def Domain.evtqWr (D : Domain) : BitVec 20 := RegField.index.get D.eventqProd

/-- EVENTQ_CONS.RD (R49). -/
def Domain.evtqRd (D : Domain) : BitVec 20 := RegField.index.get D.eventqCons

/-- The command queue is empty (R164). -/
def Domain.cmdqEmpty (cfg : Config) (D : Domain) : Bool :=
  queueEmpty (queuePos (D.cmdqShift cfg) D.cmdqWr) (queuePos (D.cmdqShift cfg) D.cmdqRd)

/-- The event queue is empty (R164). -/
def Domain.evtqEmpty (cfg : Config) (D : Domain) : Bool :=
  queueEmpty (queuePos (D.evtqShift cfg) D.evtqWr) (queuePos (D.evtqShift cfg) D.evtqRd)

/-- The event queue is full (R165). -/
def Domain.evtqFull (cfg : Config) (D : Domain) : Bool :=
  queueFull (queuePos (D.evtqShift cfg) D.evtqWr) (queuePos (D.evtqShift cfg) D.evtqRd)

/-- The address of the command at the consume index: `cmdq_base + index * 16` (R83, R167). -/
def Domain.cmdAddr (cfg : Config) (D : Domain) : Addr :=
  let q := D.cmdqShift cfg
  queueBase D.cmdqBase q cmdSizeLog2 + BitVec.ofNat 64 ((queuePos q D.cmdqRd).index * cmdSize)

/-- The address of the event slot at the produce index: `evtq_base + index * EVENT_SIZE` (R83, R169). -/
def Domain.evtAddr (cfg : Config) (D : Domain) : Addr :=
  let q := D.evtqShift cfg
  queueBase D.eventqBase q eventSizeLog2 + BitVec.ofNat 64 ((queuePos q D.evtqWr).index * eventSize)

end Sys2Proof.Machine
end

