-- ==== Sys2Proof/Machine/Ops.lean ====
section
/-! DEFINITION. The named operations over the state: guest memory (20_memory.md), the Domains, the queues
(40_queue_protocol.md), event signalling (44_event_signalling.md R300), and a command's success and failure: the block's
one exception entry (43_commands.md R257, 60_exceptions.md R409) with the acknowledge its return begins with (R412). -/

namespace Sys2Proof.Machine

/-! ### Guest memory (R80, R81, R96) -/

/-- The byte at an address; an address not listed reads 0 (log 5). -/
def Memory.read (m : Memory) (a : Nat) : Byte := (Assoc.get? m a).getD 0#8

/-- The memory with one byte stored; storing 0 removes the entry, so that equal memories are equal lists. -/
def Memory.write (m : Memory) (a : Nat) (b : Byte) : Memory :=
  if b = 0#8 then Assoc.erase m a else Assoc.set m a b

/-- `MemRead` of `n` bytes from an address up; addresses wrap modulo 2^64 (R11, R12). -/
def Memory.readBytes (m : Memory) (a : Addr) : Nat → List Byte
  | 0 => []
  | n + 1 => Memory.read m a.toNat :: Memory.readBytes m (a + 1) n

/-- `MemWrite` of a byte sequence from an address up (R12). -/
def Memory.writeBytes (m : Memory) (a : Addr) : List Byte → Memory
  | [] => m
  | b :: bs => Memory.writeBytes (Memory.write m a.toNat b) (a + 1) bs

/-- The canonical form: addresses strictly rising and below 2^64, no entry that reads as an unlisted address does. -/
def Memory.wf (m : Memory) : Bool :=
  Assoc.sorted m && m.all (fun c => decide (c.1 < 2 ^ 64) && decide (c.2 ≠ 0#8))

/-- An address lies in a failing range. -/
def failsAt (ranges : List (Nat × Nat)) (a : Nat) : Bool := ranges.any (fun r => decide (r.1 ≤ a) && decide (a < r.2))

/-- An access to `n` bytes fails: only with `MEM_CAN_ABORT`, and where the collaborator says so (R96, log 10). -/
def State.memAborts (s : State) (a : Addr) (n : Nat) : Bool :=
  s.cfg.memCanAbort && (List.range n).any (fun k => failsAt s.failing (a + BitVec.ofNat 64 k).toNat)

/-- A structure fetch: the bytes, or nothing if the access fails (R84, R96). -/
def State.fetch (s : State) (a : Addr) (n : Nat) : Option (List Byte) :=
  if s.memAborts a n then none else some (Memory.readBytes s.mem a n)

/-! ### Domains -/

/-- `REG[d]`, with the cache and the lines of the Domain (R34). -/
def State.dom (s : State) : SecurityState → Domain
  | .secure => s.secure
  | .nonSecure => s.nonSecure

/-- The state with one Domain replaced. -/
def State.setDom (s : State) (d : SecurityState) (D : Domain) : State :=
  match d with
  | .secure => { s with secure := D }
  | .nonSecure => { s with nonSecure := D }

/-- The operation under way is complete and has answered. -/
def State.respond (s : State) (r : Response) : State := { s with phase := .idle, response := r }

/-! ### The command queue: consumer role (R167, R168) -/

/-- What a peek finds. -/
inductive Peek
  | empty
  | aborted
  | bytes (bs : List Byte)
  deriving DecidableEq, Repr

/-- `TryPeek` (R167): the bytes at the consume index, read afresh each time (R93). -/
def State.tryPeek (s : State) (d : SecurityState) : Peek :=
  if (s.dom d).cmdqEmpty s.cfg then .empty
  else
    match s.fetch ((s.dom d).cmdAddr s.cfg) cmdSize with
    | none => .aborted
    | some bs => .bytes bs

/-- CMDQ_CONS with RD advanced by one entry (R166, R168). -/
def Domain.advanceRd (cfg : Config) (D : Domain) : Domain :=
  { D with cmdqCons := RegField.index.set (advancedField (D.cmdqShift cfg) D.cmdqRd) D.cmdqCons }

/-- `AdvanceConsumerIndex` (R168): nothing on an empty queue. -/
def State.advanceConsumer (s : State) (d : SecurityState) : State :=
  if (s.dom d).cmdqEmpty s.cfg then s else s.setDom d ((s.dom d).advanceRd s.cfg)

/-! ### The event queue: producer role (R169) -/

/-- EVENTQ_PROD with WR advanced by one entry (R166, R169). -/
def Domain.advanceWr (cfg : Config) (D : Domain) : Domain :=
  { D with eventqProd := RegField.index.set (advancedField (D.evtqShift cfg) D.evtqWr) D.eventqProd }

/-- What an enqueue came to. -/
inductive Enqueue
  | recorded (s : State)
  | full
  | aborted

/-- `TryEnqueue` (R169): the bytes are written, then the index advances (R90). A failing write drops the event (R96). -/
def State.tryEnqueue (s : State) (d : SecurityState) (e : Event) : Enqueue :=
  if (s.dom d).evtqFull s.cfg then .full
  else if s.memAborts ((s.dom d).evtAddr s.cfg) eventSize then .aborted
  else
    .recorded (State.setDom { s with mem := Memory.writeBytes s.mem ((s.dom d).evtAddr s.cfg) e.bytes } d
      ((s.dom d).advanceWr s.cfg))

/-- `Pulse(EVTQ_LINE[d])` (R59, R305). -/
def State.pulse (s : State) (d : SecurityState) : State :=
  s.setDom d { s.dom d with evtqPulses := (s.dom d).evtqPulses + 1 }

/-- `SignalEvent` (R300 to R305). -/
def State.signalEvent (s : State) (d : SecurityState) (e : Event) (record : Bool) : State :=
  if record && (s.dom d).eventqen then
    match s.tryEnqueue d e with
    | .recorded t => if (s.dom d).evtqEmpty s.cfg && (s.dom d).eventqIrqen then t.pulse d else t
    | .full => s.setDom d (s.dom d).noteOverflow
    | .aborted => s
  else s

/-! ### The end of a command (R252, R255, R257) -/

/-- The typed error codes (R280). -/
inductive CmdError
  | none
  | illegal
  | abort
  /-- Raised by nothing: ATS is unimplemented (R282). -/
  | atcInvalidationSync
  deriving DecidableEq, Repr

/-- `Code` (R280). -/
def CmdError.code : CmdError → BitVec 7
  | .none => 0
  | .illegal => 1
  | .abort => 2
  | .atcInvalidationSync => 3

/-- What a command error does to its Domain (R257, R409): ERR takes the code, RD stays on the failed command, the
error-present flag toggles (under `CMDQ_ERR_DEBOUNCE` only when acknowledged), the line is recomputed. -/
def Domain.takeCommandError (cfg : Config) (D : Domain) (r : CmdError) : Domain :=
  let D' := { D with cmdqCons := RegField.err.set r.code D.cmdqCons }
  (if cfg.cmdqErrDebounce && D.errorActive then D' else D'.toggleCmdqErr).refreshGerrLine

/-- `CommandFailed` (R257): the error is recorded in the Domain's registers and the drain stops. -/
def State.commandFailed (s : State) (d : SecurityState) (r : CmdError) : State :=
  (s.setDom d ((s.dom d).takeCommandError s.cfg r)).respond .done

/-- `AckGlobalError` (R41): the abstract acknowledge, the first step of software's return from a command error (R412). -/
def Domain.ackGlobalError (D : Domain) : Domain :=
  Domain.refreshGerrLine { D with gerrorn := RegField.cmdqErr.set (BitVec.ofBool D.cmdqErr) D.gerrorn }

/-- One pass of the drain over a recognised command (R252): the security tag is checked first (R253); an incompatible
command fails with `Illegal` and has no effect; otherwise the command has its effect and the consume index advances. -/
def State.runCommand (s : State) (tag : Option SecurityState) (effect : State → State) : State :=
  if secCompatible s.cfg s.cur tag then (effect s).advanceConsumer s.cur
  else s.commandFailed s.cur .illegal

end Sys2Proof.Machine
end

