-- ==== Sys2Proof/Machine/Controllers.lean ====
section
/-! DEFINITION. Stream controllers (45_stream_controllers.md): window sets, `InvalidateTlb`, `SetEnabled`, the registry,
and the choice among overlapping windows (93_implementation_defined.md U8). -/

namespace Sys2Proof.Machine

/-! ### Windows (R60) -/

/-- The permission set contains the kind. -/
def Perms.has (p : Perms) : AccessKind → Bool
  | .read => p.read
  | .write => p.write
  | .execute => p.exec

/-- The window covers the address (R60). -/
def Window.covers (w : Window) (a : Addr) : Bool := decide (w.start.toNat ≤ a.toNat) && decide (a.toNat < w.stop)

/-- Where the window maps an address: `(a + offset) mod 2^64` (R60, R95). -/
def Window.apply (w : Window) (a : Addr) : Addr := a + w.offset

/-- A window makes sense: `start < stop ≤ 2^64` (R60). -/
def Window.wf (w : Window) : Bool := decide (w.start.toNat < w.stop) && decide (w.stop ≤ 2 ^ 64)

/-- The identity window of a Bypass stream: the whole input space with every permission (R199, R200). -/
def bypassWindow : Window := { start := 0, stop := 2 ^ 64, offset := 0, perms := ⟨true, true, true⟩ }

/-- The window that serves an access, of those that may: the only one, or a free choice among several (U8). -/
def pickWindow (n : Nat) : List Window → Option Window
  | [] => none
  | [w] => some w
  | w :: w' :: ws => some ((w :: w' :: ws).getD (Config.overlapChoice n % (ws.length + 2)) w)

/-- How many free values a choice takes. -/
def choicesTaken : List Window → Nat
  | _ :: _ :: _ => 1
  | _ => 0

/-! ### One controller -/

/-- `InvalidateTlb` (R322): drops every window, or every window that contains the address. -/
def Controller.invalidateTlb (c : Controller) : Option Addr → Controller
  | none => { c with win := [] }
  | some va => { c with win := c.win.filter (fun w => !w.covers va) }

/-- `SetEnabled` (R321). -/
def Controller.setEnabled (cfg : Config) (b : Bool) (c : Controller) : Controller :=
  if c.enabled = b then c
  else
    let c' := { c with enabled := b }
    if cfg.clearWindowsOnEnableChange then c'.invalidateTlb none else c'

/-- Adds a window to the set; a window equal to one already present changes nothing (R325, R331). -/
def Controller.addWindow (w : Window) (c : Controller) : Controller :=
  if c.win.contains w then c else { c with win := c.win ++ [w] }

/-- Sets or clears the skip flag (R333). -/
def Controller.setSkipped (b : Bool) (c : Controller) : Controller := { c with skipped := b }

/-! ### The registry -/

/-- The controller of a stream (R56). -/
def State.ctl? (s : State) (sid : StreamId) : Option Controller := Assoc.get? s.ctls sid.toNat

/-- Changes the controller of one stream. -/
def State.modifyCtl (s : State) (sid : StreamId) (f : Controller → Controller) : State :=
  { s with ctls := Assoc.modify s.ctls sid.toNat f }

/-- Changes every controller of a Domain. -/
def State.forDomainCtls (s : State) (d : SecurityState) (f : Controller → Controller) : State :=
  { s with ctls := Assoc.map (fun c => if c.sec = d then f c else c) s.ctls }

/-- `InvalidateDomain` (R277): the primitive of every TLB invalidate. -/
def State.invalidateDomain (s : State) (d : SecurityState) (a : Option Addr) : State :=
  s.forDomainCtls d (fun c => c.invalidateTlb a)

/-- `STREAM_SEC` (R8, D20). -/
def streamSec (cfg : Config) (sid : StreamId) : SecurityState :=
  if cfg.secureStreams.contains sid then .secure else .nonSecure

/-- `BACKEND` (R8, R341). -/
def backendOf (cfg : Config) (sid : StreamId) : Backend :=
  if cfg.hardwareStreams.contains sid then .hardwareAssisted else .software

/-- `STREAM_OF` (R8): a master not listed has the stream of its own number (log 3). -/
def streamOfMaster (cfg : Config) (master : Nat) : StreamId :=
  (Assoc.get? cfg.streamOf master).getD (BitVec.ofNat 32 master)

/-- The controller that `Register` makes (R340). -/
def State.newController (s : State) (sid : StreamId) : Controller :=
  { sid := sid, sec := streamSec s.cfg sid, backend := backendOf s.cfg sid,
    enabled := (s.dom (streamSec s.cfg sid)).smmuen, win := [], skipped := false }

/-- `Register(sid)` (R340), for a stream that has no controller. -/
def State.register (s : State) (sid : StreamId) : State :=
  { s with ctls := Assoc.set s.ctls sid.toNat (s.newController sid) }

/-- `Unregister(sid)` (R340): the controller goes with its windows; the cached STE stays. -/
def State.unregister (s : State) (sid : StreamId) : State :=
  { s with ctls := Assoc.erase s.ctls sid.toNat }

/-- Removes the cached STEs whose stream id `p` picks (R262, R263). -/
def State.eraseStes (s : State) (d : SecurityState) (p : Nat → Bool) : State :=
  s.setDom d { s.dom d with steCache := Assoc.eraseIf p (s.dom d).steCache }

end Sys2Proof.Machine
end

