-- ==== Sys2Proof/Machine/Cfgi.lean ====
section
/-! DEFINITION. The stream-table-entry invalidations (43_commands.md R262, R263): map removal from the executing Domain's
STE cache; the window caches are not touched (R442). -/

namespace Sys2Proof.Machine

/-- CMD_CFGI_STE (R262): removes one stream id; `Leaf` is ignored. -/
def execCmdCfgiSte (ssec : Bool) (streamId : StreamId) (_leaf : Bool) (s : State) : Host.Outcome State Fault Refusal :=
  .next (s.runCommand (some (securityTag ssec)) (fun t => t.eraseStes t.cur (fun k => k == streamId.toNat)))

/-- CMD_CFGI_STE_RANGE (R263), and CMD_CFGI_ALL with `Range = 31`: removes the aligned block of `2^(Range+1)` ids. -/
def execCmdCfgiSteRange (ssec : Bool) (streamId : StreamId) (range : BitVec 5) (s : State) :
    Host.Outcome State Fault Refusal :=
  .next (s.runCommand (some (securityTag ssec)) (fun t => t.eraseStes t.cur (inStreamRange streamId range)))

end Sys2Proof.Machine
end

