-- ==== Sys2Proof/Machine/Prefetch.lean ====
section
/-! DEFINITION. The prefetch hints (43_commands.md R260, R261): they always succeed and warm nothing (D30). -/

namespace Sys2Proof.Machine

/-- CMD_PREFETCH_CONFIG (R260). -/
def execCmdPrefetchConfig (ssec _ssv : Bool) (_substreamId : BitVec 20) (_streamId : StreamId) (s : State) :
    Host.Outcome State Fault Refusal :=
  .next (s.runCommand (some (securityTag ssec)) (fun t => t))

/-- CMD_PREFETCH_ADDR (R261). -/
def execCmdPrefetchAddr (ssec _ssv : Bool) (_substreamId : BitVec 20) (_streamId : StreamId) (_size _stride : BitVec 5)
    (_address : BitVec 52) (s : State) : Host.Outcome State Fault Refusal :=
  .next (s.runCommand (some (securityTag ssec)) (fun t => t))

end Sys2Proof.Machine
end

