-- ==== Sys2Proof/Machine/Walk.lean ====
section
/-! DEFINITION. The page-table walker (42_page_table_walker.md): the parameters of a level (R212 to R216), the entry's
address (R217), and what each entry shape does to the walk (R219 to R229). The walk as one function (`Walk.result`) is
the loop of R211; the machine runs it one entry a step. -/

namespace Sys2Proof.Machine

/-- What a walk answers (R210). -/
inductive WalkResult
  | window (w : Window)
  | noWindow (k : FaultKind)
  deriving DecidableEq, Repr

/-- What one entry does to a walk (R211): it ends it, or gives the next table's base. -/
inductive EntryOutcome
  | done (r : WalkResult)
  | descend (base : Addr)
  deriving DecidableEq, Repr

/-- Bit 55 of the address selects TTBR1 (R213). -/
def selectsUpper (va : Addr) : Bool := va.getLsbD 55

/-- `GranuleShift` (R215): the page-size shift of the selected half, or nothing for a reserved encoding. -/
def granuleShift (upper : Bool) (cd : Cd) : Option Nat := if upper then tg1Shift cd.tg1 else tg0Shift cd.tg0

/-- The selected half is disabled (R214). -/
def halfDisabled (upper : Bool) (cd : Cd) : Bool := if upper then cd.epd1 else cd.epd0

/-- The base register of the selected half (R213). -/
def ttbr (upper : Bool) (cd : Cd) : Addr := if upper then cd.ttbr1 else cd.ttbr0

/-- `Params` (R212): the table base and the page-size shift, or nothing where the walk fails with `Translation`. -/
def Walk.params (w : Walk) : Option (Addr × Nat) :=
  let upper := selectsUpper w.req.va
  if halfDisabled upper w.cd then none
  else
    match granuleShift upper w.cd with
    | none => none
    | some p => some (w.tableBase.getD (ttbr upper w.cd), p)

/-- `vaShift` (R216). -/
def vaShift (cfg : Config) (p level : Nat) : Nat := p + (p - 3) * (cfg.maxLevel - level)

/-- The index into the table of a level (R217). -/
def tableIndex (cfg : Config) (va : Addr) (p level : Nat) : Nat := (va.toNat >>> vaShift cfg p level) % 2 ^ (p - 3)

/-- The address of the entry to read: `tableBase + index * 8` (R217). -/
def Walk.entryAddr (cfg : Config) (w : Walk) (base : Addr) (p : Nat) : Addr :=
  base + BitVec.ofNat 64 (tableIndex cfg w.req.va p w.level * pteSize)

/-- `AddrSizeViolation` (R229). -/
def addrSizeViolation (cfg : Config) (cd : Cd) (oa : BitVec 36) : Bool :=
  outputAddressOf oa &&& (if cd.aa64 then cfg.oaReservedMask64 else cfg.oaReservedMask32) != 0

/-- The window of `2^k` bytes around `va` onto the output address (R221, R224). -/
def alignedWindow (va oa : Addr) (k : Nat) (perms : Perms) : Window :=
  { start := alignDown va k, stop := (alignDown va k).toNat + 2 ^ k, offset := alignDown oa k - alignDown va k,
    perms := perms }

/-- A Block stands where R219 forbids one. -/
def blockForbidden (level p : Nat) : Bool := decide (2 < level) || (decide (level = 1) && decide (p ≠ 12))

/-- `BlockWindow` (R219 to R221): Read and Write whatever AP, PXN and UXN hold; never Execute. -/
def blockOutcome (cfg : Config) (w : Walk) (oa : BitVec 36) (p : Nat) : EntryOutcome :=
  .done
    (if blockForbidden w.level p then .noWindow .translation
    else if addrSizeViolation cfg w.cd oa then .noWindow .addrSize
    else .window (alignedWindow w.req.va (outputAddressOf oa) (vaShift cfg p w.level) ⟨true, true, false⟩))

/-- `Perms` (R225, R143). -/
def pagePerms (ap : BitVec 2) (pxn uxn priv : Bool) : Perms :=
  if priv then { read := true, write := !ap.getLsbD 1, exec := !pxn }
  else { read := ap.getLsbD 0, write := decide (ap = 0b01#2), exec := !uxn }

/-- A Table entry: below the last level the next table's base (R222), at the last level a page (R223, R224). -/
def tableOutcome (cfg : Config) (w : Walk) (ap : BitVec 2) (pxn uxn : Bool) (oa : BitVec 36) (p : Nat) : EntryOutcome :=
  if addrSizeViolation cfg w.cd oa then .done (.noWindow .addrSize)
  else if w.level < cfg.maxLevel then .descend (outputAddressOf oa)
  else .done (.window (alignedWindow w.req.va (outputAddressOf oa) p (pagePerms ap pxn uxn w.priv)))

/-- An Invalid entry fails the walk (R227). -/
def invalidOutcome : EntryOutcome := .done (.noWindow .translation)

/-- What an entry does to a walk, by its shape (R218). -/
def entryOutcome (cfg : Config) (w : Walk) (p : Nat) : Instr → EntryOutcome
  | .pteBlock _ _ _ oa _ => blockOutcome cfg w oa p
  | .pteTable ap pxn uxn oa _ _ => tableOutcome cfg w ap pxn uxn oa p
  | .pteInvalid00 | .pteInvalid10 => invalidOutcome
  | .cmdPrefetchConfig .. | .cmdPrefetchAddr .. | .cmdCfgiSte .. | .cmdCfgiSteRange .. | .cmdTlbiNhAll ..
  | .cmdTlbiNhAsid .. | .cmdTlbiNhVa .. | .cmdTlbiNhVaa .. | .cmdTlbiEl3All .. | .cmdTlbiEl3Va .. | .cmdTlbiEl2All ..
  | .cmdTlbiEl2Asid .. | .cmdTlbiEl2Va .. | .cmdTlbiEl2Vaa .. | .cmdTlbiS12Vmall .. | .cmdTlbiS2Ipa ..
  | .cmdTlbiNsnhAll .. | .cmdSync .. => invalidOutcome

/-- The walk at its next level. -/
def Walk.descend (w : Walk) (base : Addr) : Walk := { w with level := w.level + 1, tableBase := some base }

/-- `Walk` (R211) from the walk's present level on, as one function of the memory (R232): `n` bounds the entries read. -/
def Walk.result (s : State) : Nat → Walk → WalkResult
  | 0, _ => .noWindow .translation
  | n + 1, w =>
    match w.params with
    | none => .noWindow .translation
    | some (base, p) =>
      match s.fetch (w.entryAddr s.cfg base p) pteSize with
      | none => .noWindow .walkFetch
      | some bs =>
        match entryOutcome s.cfg w p (decodePteWord (BitVec.ofNat 64 (leNat bs))) with
        | .done r => r
        | .descend next => Walk.result s n (w.descend next)

end Sys2Proof.Machine
end

