-- ==== Sys2Proof/Machine/Translate.lean ====
section
/-! DEFINITION. The translation routine (41_stream_table_and_context.md) and the two back-ends' checks around it
(45_stream_controllers.md R325, R330, R332), cut at the walk: `beginTranslate` is `Translate` up to the walk, and
`finishWalk` is `Translate` and the controller from the walk's answer on. -/

namespace Sys2Proof.Machine

/-! ### The end of an access -/

/-- The privilege that a controller puts into a permission event (R326, R396). -/
def State.cachedPriv (s : State) (d : SecurityState) (sid : StreamId) : Bool :=
  match Assoc.get? (s.dom d).steCache sid.toNat with
  | some ste => decide (ste.privCfg ≠ .unprivileged)
  | none => true

/-- The permission fault of a controller (R326, R393). -/
def State.permissionFault (s : State) (r : Request) : State :=
  s.signalEvent r.sec (makeEvent .permission r.sid r.va r.kind (s.cachedPriv r.sec r.sid)) true

/-- The software controller's judgement of an access by a window (R325). -/
def State.judge (s : State) (r : Request) (w : Window) : State :=
  if w.perms.has r.kind then s.respond (.allow (w.apply r.va))
  else (s.permissionFault r).respond .deny

/-- The software controller after `Translate` (R325): the window is cached whether or not it permits the access. -/
def State.softwareFinish (s : State) (r : Request) : Option Window → State
  | none => s.respond .deny
  | some w => (s.modifyCtl r.sid (Controller.addWindow w)).judge r w

/-- The first phase of `FaultHook` after `Translate` (R332, R333). -/
def State.hardwareFinish (s : State) (r : Request) : Option Window → State
  | none => s.respond .externalAbort
  | some w =>
    let installed := s.modifyCtl r.sid (Controller.addWindow w)
    let violation := !w.perms.has r.kind
    let signalled := if violation then installed.permissionFault r else installed
    let skipping :=
      if violation || decide (s.cfg.skipSetOn = .everySuccessfulWalk) then
        signalled.modifyCtl r.sid (Controller.setSkipped true)
      else signalled
    skipping.respond .retry

/-- The controller's part after `Translate` has answered. -/
def State.finishAccess (s : State) (r : Request) (w : Option Window) : State :=
  match r.backend with
  | .software => s.softwareFinish r w
  | .hardwareAssisted => s.hardwareFinish r w

/-- `Fault(k)` of `Translate` (R199): the event, then no window. -/
def State.translateFault (s : State) (r : Request) (k : FaultKind) (priv record : Bool) : State :=
  (s.signalEvent r.sec (makeEvent k r.sid r.va r.kind priv) record).finishAccess r none

/-- The walk's answer, back in `Translate` (R199): a window goes to the controller; a failed walk is a fault event,
recorded as R309 says. -/
def State.finishWalk (s : State) : WalkResult → State
  | .window w => s.finishAccess s.walk.req (some w)
  | .noWindow k =>
    s.translateFault s.walk.req k s.walk.priv (s.walk.req.record && (!s.cfg.honourCdR || s.walk.cd.r))

/-- One level of a walk done: on to the next table, or the walk ends (R211). -/
def State.walkEntry (s : State) : EntryOutcome → State
  | .done r => s.finishWalk r
  | .descend base => { s with walk := s.walk.descend base }

/-- One pass of the walk's loop over an entry already read: the parameters of the level come first (R211, R212). -/
def State.runEntry (s : State) (outcome : Nat → EntryOutcome) : State :=
  match s.walk.params with
  | none => s.finishWalk (.noWindow .translation)
  | some (_, p) => s.walkEntry (outcome p)

/-! ### `Translate` up to the walk -/

/-- What `LookupSte` answers. -/
inductive SteLookup
  | found (ste : Ste) (s : State)
  | failed (k : FaultKind)

/-- `LookupSte` (R191, R198): the cache first, then the bounds and the format, then memory; a decoded entry is cached
whatever it is. A failed lookup stores nothing. -/
def State.lookupSte (s : State) (d : SecurityState) (sid : StreamId) : SteLookup :=
  let D := s.dom d
  match Assoc.get? D.steCache sid.toNat with
  | some ste => .found ste s
  | none =>
    if 2 ^ s.cfg.sidBits ≤ sid.toNat || 2 ^ (RegField.strtabLog2Size.get D.strtabBaseCfg).toNat ≤ sid.toNat then
      .failed .badStreamId
    else if RegField.strtabFmt.get D.strtabBaseCfg ≠ 0 then .failed .badStreamId
    else
      match s.fetch (D.steAddr sid) steSize with
      | none => .failed .steFetch
      | some bs =>
        .found (decodeSte bs) (s.setDom d { D with steCache := Assoc.set D.steCache sid.toNat (decodeSte bs) })

/-- The walk that a Stage-1 translation begins (R199, R211). -/
def State.beginWalk (s : State) (r : Request) (cd : Cd) (priv : Bool) : State :=
  { s with
    phase := .walking
    walk := { req := r, cd := cd, priv := priv, level := s.cfg.startLevel, tableBase := none } }

/-- `Translate` for a Stage-1 stream up to the walk: `FetchCd` (R193) and the CD's validity (R199). -/
def State.translateStage1 (s : State) (r : Request) (ste : Ste) : State :=
  let priv := decide (ste.privCfg ≠ .unprivileged)
  match s.fetch ste.cdAddr cdSize with
  | none => s.translateFault r .cdFetch priv r.record
  | some bs =>
    if (decodeCd bs).v then s.beginWalk r (decodeCd bs) priv
    else s.translateFault r .badCd priv r.record

/-- `Translate` with a decoded STE (R199 to R201). -/
def State.translateSte (s : State) (r : Request) (ste : Ste) : State :=
  if ste.v then
    match ste.config with
    | .abort => s.finishAccess r none
    | .bypass => s.finishAccess r (some bypassWindow)
    | .stage2 | .both => s.translateFault r .badSte (decide (ste.privCfg ≠ .unprivileged)) r.record
    | .stage1 => s.translateStage1 r ste
  else s.translateFault r .badSte (decide (ste.privCfg ≠ .unprivileged)) r.record

/-- `Translate` up to the walk, with the controller's part where no walk is needed (R199). -/
def State.beginTranslate (s : State) (r : Request) : State :=
  match s.lookupSte r.sec r.sid with
  | .failed k => s.translateFault r k true r.record
  | .found ste t => t.translateSte r ste

/-! ### The controllers' checks before `Translate` -/

/-- The cached windows that contain the address (R325, R327). -/
def Controller.hits (c : Controller) (va : Addr) : List Window := c.win.filter (fun w => w.covers va)

/-- The installed windows that contain the address and permit the kind (R330 b). -/
def Controller.permittingHits (c : Controller) (va : Addr) (kind : AccessKind) : List Window :=
  c.win.filter (fun w => w.covers va && w.perms.has kind)

/-- The access as a request of the controller; the first phase records (R332). -/
def Controller.request (c : Controller) (va : Addr) (kind : AccessKind) (record : Bool) : Request :=
  { sid := c.sid, sec := c.sec, backend := c.backend, va := va, kind := kind, record := record }

/-- `CheckAccess` of an enabled controller (R325): a hit is judged, a miss is translated. -/
def State.softwareAccess (s : State) (c : Controller) (va : Addr) (kind : AccessKind) : State :=
  let r := c.request va kind true
  match pickWindow s.freeCount (c.hits va) with
  | some w => State.judge { s with freeCount := s.freeCount + choicesTaken (c.hits va) } r w
  | none => s.beginTranslate r

/-- `FaultHook` (R332): the second phase aborts without a walk or an event; the first phase translates. -/
def State.faultHook (s : State) (c : Controller) (va : Addr) (kind : AccessKind) : State :=
  if c.skipped then (s.modifyCtl c.sid (Controller.setSkipped false)).respond .externalAbort
  else s.beginTranslate (c.request va kind (!c.skipped))

/-- An access of a CPU whose window table the enabled controller fills (R330): a permitting window serves it without
the block; any other access calls the fault hook. -/
def State.hardwareAccess (s : State) (c : Controller) (va : Addr) (kind : AccessKind) : State :=
  match pickWindow s.freeCount (c.permittingHits va kind) with
  | some w =>
    State.respond { s with freeCount := s.freeCount + choicesTaken (c.permittingHits va kind) } (.allow (w.apply va))
  | none => s.faultHook c va kind

/-- A bus access through a controller (R320, R323): a disabled controller lets it pass at its own address. -/
def State.access (s : State) (c : Controller) (va : Addr) (kind : AccessKind) : State :=
  if c.enabled then
    match c.backend with
    | .software => s.softwareAccess c va kind
    | .hardwareAssisted => s.hardwareAccess c va kind
  else s.respond (.allow va)

end Sys2Proof.Machine
end

