-- ==== Sys2Proof/Machine/Pte.lean ====
section
/-! DEFINITION. The page-table entries as the walk under way executes them (42_page_table_walker.md R218 to R229). -/

namespace Sys2Proof.Machine

/-- A Block entry (R219 to R221): it ends the walk. AP, PXN, UXN and the attributes are not read. -/
def execPteBlock (_ap : BitVec 2) (_pxn _uxn : Bool) (outputAddress : BitVec 36) (_attrs : PteAttrs) (s : State) :
    Host.Outcome State Fault Refusal :=
  .next (s.runEntry (blockOutcome s.cfg s.walk outputAddress))

/-- A Table entry (R222 to R225): the next table below the last level, a page at it. -/
def execPteTable (ap : BitVec 2) (pxn uxn : Bool) (outputAddress : BitVec 36) (_attrs : PteAttrs) (_hier : PteHier)
    (s : State) : Host.Outcome State Fault Refusal :=
  .next (s.runEntry (tableOutcome s.cfg s.walk ap pxn uxn outputAddress))

/-- An Invalid entry with low bits 0b00 (R227). -/
def execPteInvalid00 (s : State) : Host.Outcome State Fault Refusal :=
  .next (s.runEntry (fun _ => invalidOutcome))

/-- An Invalid entry with low bits 0b10 (R227). -/
def execPteInvalid10 (s : State) : Host.Outcome State Fault Refusal :=
  .next (s.runEntry (fun _ => invalidOutcome))

end Sys2Proof.Machine
end

