-- ==== Sys2Proof/Machine/Sync.lean ====
section
/-! DEFINITION. CMD_SYNC (43_commands.md R279) and what becomes of an opcode outside the recognised set (R278, R283,
R284). -/

namespace Sys2Proof.Machine

/-- CMD_SYNC (R279, R91): the acknowledgement is the consume index moving past it; a completion signal is logged only. -/
def execCmdSync (_cs : BitVec 2) (_msiData : BitVec 32) (_msiAddress : BitVec 50) (s : State) :
    Host.Outcome State Fault Refusal :=
  .next (s.runCommand none (fun t => t))

/-- Bytes that decode to no command: an opcode of `EXTRA_NOP_OPCODES` succeeds (R283), any other fails with `Illegal`
(R278). -/
def State.runUnrecognised (s : State) : DecodeError → State
  | .unrecognisedOpcode op =>
    if s.cfg.extraNopOpcodes.contains op then s.runCommand none (fun t => t)
    else s.commandFailed s.cur .illegal
  | .wrongLength _ => s.commandFailed s.cur .illegal

end Sys2Proof.Machine
end

