-- ==== Sys2Proof/Machine/Tlbi.lean ====
section
/-! DEFINITION. The TLB invalidates (43_commands.md R264 to R276): all windows, or those that contain an address, in every
controller of the executing Domain (R277). VMID, ASID, Leaf, the exception level and the stage of the name narrow
nothing. These commands have no security tag (R253). -/

namespace Sys2Proof.Machine

/-- The invalidate without an address: `InvalidateDomain(d, None)` (R277). -/
def State.tlbiAll (s : State) : State := s.runCommand none (fun t => t.invalidateDomain t.cur none)

/-- The invalidate by address: `InvalidateDomain(d, Some(Address << 12))` (R277). -/
def State.tlbiVa (s : State) (address : BitVec 52) : State :=
  s.runCommand none (fun t => t.invalidateDomain t.cur (some (addressOperand address)))

/-- CMD_TLBI_NH_ALL (R264). -/
def execCmdTlbiNhAll (_vmid _asid : BitVec 16) (s : State) : Host.Outcome State Fault Refusal :=
  .next s.tlbiAll

/-- CMD_TLBI_NH_ASID (R265). -/
def execCmdTlbiNhAsid (_vmid _asid : BitVec 16) (s : State) : Host.Outcome State Fault Refusal :=
  .next s.tlbiAll

/-- CMD_TLBI_NH_VA (R266). -/
def execCmdTlbiNhVa (_vmid _asid : BitVec 16) (_leaf : Bool) (address : BitVec 52) (s : State) :
    Host.Outcome State Fault Refusal :=
  .next (s.tlbiVa address)

/-- CMD_TLBI_NH_VAA (R267). -/
def execCmdTlbiNhVaa (_vmid _asid : BitVec 16) (_leaf : Bool) (address : BitVec 52) (s : State) :
    Host.Outcome State Fault Refusal :=
  .next (s.tlbiVa address)

/-- CMD_TLBI_EL3_ALL (R268). -/
def execCmdTlbiEl3All (_vmid _asid : BitVec 16) (s : State) : Host.Outcome State Fault Refusal :=
  .next s.tlbiAll

/-- CMD_TLBI_EL3_VA (R269). -/
def execCmdTlbiEl3Va (_vmid _asid : BitVec 16) (_leaf : Bool) (address : BitVec 52) (s : State) :
    Host.Outcome State Fault Refusal :=
  .next (s.tlbiVa address)

/-- CMD_TLBI_EL2_ALL (R270). -/
def execCmdTlbiEl2All (_vmid _asid : BitVec 16) (s : State) : Host.Outcome State Fault Refusal :=
  .next s.tlbiAll

/-- CMD_TLBI_EL2_ASID (R271). -/
def execCmdTlbiEl2Asid (_vmid _asid : BitVec 16) (s : State) : Host.Outcome State Fault Refusal :=
  .next s.tlbiAll

/-- CMD_TLBI_EL2_VA (R272). -/
def execCmdTlbiEl2Va (_vmid _asid : BitVec 16) (_leaf : Bool) (address : BitVec 52) (s : State) :
    Host.Outcome State Fault Refusal :=
  .next (s.tlbiVa address)

/-- CMD_TLBI_EL2_VAA (R273). -/
def execCmdTlbiEl2Vaa (_vmid _asid : BitVec 16) (_leaf : Bool) (address : BitVec 52) (s : State) :
    Host.Outcome State Fault Refusal :=
  .next (s.tlbiVa address)

/-- CMD_TLBI_S12_VMALL (R274). -/
def execCmdTlbiS12Vmall (_vmid _asid : BitVec 16) (s : State) : Host.Outcome State Fault Refusal :=
  .next s.tlbiAll

/-- CMD_TLBI_S2_IPA (R275). -/
def execCmdTlbiS2Ipa (_vmid _asid : BitVec 16) (_leaf : Bool) (address : BitVec 52) (s : State) :
    Host.Outcome State Fault Refusal :=
  .next (s.tlbiVa address)

/-- CMD_TLBI_NSNH_ALL (R276). -/
def execCmdTlbiNsnhAll (_vmid _asid : BitVec 16) (s : State) : Host.Outcome State Fault Refusal :=
  .next s.tlbiAll

end Sys2Proof.Machine
end

