-- ==== Sys2Proof/Machine/Dispatch.lean ====
section
/-! DEFINITION. The dispatch (43_commands.md R254): one arm per row of spec/opcode_table.json. A command acts in the Domain
`s.cur`, an entry in the walk `s.walk`. -/

namespace Sys2Proof.Machine

def exec (i : Instr) (s : State) : Host.Outcome State Fault Refusal :=
  match i with
  | .cmdPrefetchConfig ssec ssv substreamId streamId => Sys2Proof.Machine.execCmdPrefetchConfig ssec ssv substreamId streamId s
  | .cmdPrefetchAddr ssec ssv substreamId streamId size stride address => Sys2Proof.Machine.execCmdPrefetchAddr ssec ssv substreamId streamId size stride address s
  | .cmdCfgiSte ssec streamId leaf => Sys2Proof.Machine.execCmdCfgiSte ssec streamId leaf s
  | .cmdCfgiSteRange ssec streamId range => Sys2Proof.Machine.execCmdCfgiSteRange ssec streamId range s
  | .cmdTlbiNhAll vmid asid => Sys2Proof.Machine.execCmdTlbiNhAll vmid asid s
  | .cmdTlbiNhAsid vmid asid => Sys2Proof.Machine.execCmdTlbiNhAsid vmid asid s
  | .cmdTlbiNhVa vmid asid leaf address => Sys2Proof.Machine.execCmdTlbiNhVa vmid asid leaf address s
  | .cmdTlbiNhVaa vmid asid leaf address => Sys2Proof.Machine.execCmdTlbiNhVaa vmid asid leaf address s
  | .cmdTlbiEl3All vmid asid => Sys2Proof.Machine.execCmdTlbiEl3All vmid asid s
  | .cmdTlbiEl3Va vmid asid leaf address => Sys2Proof.Machine.execCmdTlbiEl3Va vmid asid leaf address s
  | .cmdTlbiEl2All vmid asid => Sys2Proof.Machine.execCmdTlbiEl2All vmid asid s
  | .cmdTlbiEl2Asid vmid asid => Sys2Proof.Machine.execCmdTlbiEl2Asid vmid asid s
  | .cmdTlbiEl2Va vmid asid leaf address => Sys2Proof.Machine.execCmdTlbiEl2Va vmid asid leaf address s
  | .cmdTlbiEl2Vaa vmid asid leaf address => Sys2Proof.Machine.execCmdTlbiEl2Vaa vmid asid leaf address s
  | .cmdTlbiS12Vmall vmid asid => Sys2Proof.Machine.execCmdTlbiS12Vmall vmid asid s
  | .cmdTlbiS2Ipa vmid asid leaf address => Sys2Proof.Machine.execCmdTlbiS2Ipa vmid asid leaf address s
  | .cmdTlbiNsnhAll vmid asid => Sys2Proof.Machine.execCmdTlbiNsnhAll vmid asid s
  | .cmdSync cs msiData msiAddress => Sys2Proof.Machine.execCmdSync cs msiData msiAddress s
  | .pteBlock ap pxn uxn outputAddress attrs => Sys2Proof.Machine.execPteBlock ap pxn uxn outputAddress attrs s
  | .pteTable ap pxn uxn outputAddress attrs hier => Sys2Proof.Machine.execPteTable ap pxn uxn outputAddress attrs hier s
  | .pteInvalid00 => Sys2Proof.Machine.execPteInvalid00 s
  | .pteInvalid10 => Sys2Proof.Machine.execPteInvalid10 s

end Sys2Proof.Machine
end

