-- ==== Sys2Proof/Machine/Registers.lean ====
section
/-! DEFINITION. The register interface (46_register_interface.md): reads and writes by name with the side effect of each
write, and the register space with its offsets (10_state.md R35, R53). -/

namespace Sys2Proof.Machine

/-! ### Reads (R361) -/

/-- `RegRead(d, NAME)` (R360, R361): the fields as the state holds them, reserved bits 0; no side effect. -/
def State.regRead (s : State) (d : SecurityState) (r : RegName) : BitVec 64 :=
  let D := s.dom d
  let low (v : BitVec 32) : BitVec 64 := (v &&& registerMask r).setWidth 64
  match r with
  | .idr0 => low s.cfg.idr0
  | .idr1 => low s.cfg.idr1
  | .cr0 => low D.cr0
  | .cr0ack => low D.cr0
  | .irqCtrl => low D.irqCtrl
  | .irqCtrlAck => low D.irqCtrl
  | .gerror => low D.gerror
  | .gerrorn => low D.gerrorn
  | .strtabBase => D.strtabBase
  | .strtabBaseCfg => low D.strtabBaseCfg
  | .cmdqBase => D.cmdqBase
  | .cmdqProd => low D.cmdqProd
  | .cmdqCons => low D.cmdqCons
  | .eventqBase => D.eventqBase
  | .eventqProd => low D.eventqProd
  | .eventqCons => low D.eventqCons

/-! ### Writes -/

/-- The write to CR0 (R362): the enables are stored and SMMUEN cascades to the Domain's controllers. -/
def State.writeCr0 (s : State) (d : SecurityState) (v : BitVec 32) : State :=
  let D := { s.dom d with cr0 := v &&& registerMask .cr0 }
  (s.setDom d D).forDomainCtls d (Controller.setEnabled s.cfg D.smmuen)

/-- The write to IRQ_CTRL (R364): the line is recomputed. -/
def Domain.writeIrqCtrl (D : Domain) (v : BitVec 32) : Domain :=
  Domain.refreshGerrLine { D with irqCtrl := v &&& registerMask .irqCtrl }

/-- The write to GERRORN (R366), in the style of `GERROR_ACK_STYLE`; the line is recomputed. -/
def Domain.writeGerrorn (style : AckStyle) (D : Domain) (v : BitVec 32) : Domain :=
  match style with
  | .toggleMatch => Domain.refreshGerrLine { D with gerrorn := v &&& registerMask .gerrorn }
  | .write1 => if RegField.cmdqErr.flag v then D.ackGlobalError else D.refreshGerrLine

/-- The write to CMDQ_PROD (R368): the index is stored, and with the queue enabled the drain starts (R251). -/
def State.writeCmdqProd (s : State) (d : SecurityState) (v : BitVec 32) : State :=
  let t := (s.setDom d { s.dom d with cmdqProd := v &&& registerMask .cmdqProd }).respond .done
  if (t.dom d).cmdqen then { t with phase := .draining, cur := d, response := .none } else t

/-- `RegWrite(d, NAME, v)` (R360) with the side effect of each register (R362 to R373). -/
def State.regWrite (s : State) (d : SecurityState) (r : RegName) (v : BitVec 64) : State :=
  let D := s.dom d
  let w : BitVec 32 := v.setWidth 32
  match r with
  | .cr0 => (s.writeCr0 d w).respond .done
  | .irqCtrl => (s.setDom d (D.writeIrqCtrl w)).respond .done
  | .gerrorn => (s.setDom d (D.writeGerrorn s.cfg.ackStyle w)).respond .done
  | .strtabBase => (s.setDom d { D with strtabBase := v }).respond .done
  | .strtabBaseCfg => (s.setDom d { D with strtabBaseCfg := w }).respond .done
  | .cmdqBase => (s.setDom d { D with cmdqBase := v }).respond .done
  | .cmdqProd => s.writeCmdqProd d w
  | .cmdqCons => (s.setDom d { D with cmdqCons := w &&& registerMask .cmdqCons }).respond .done
  | .eventqBase => (s.setDom d { D with eventqBase := v }).respond .done
  | .eventqProd => (s.setDom d { D with eventqProd := w &&& registerMask .eventqProd }).respond .done
  | .eventqCons => (s.setDom d { D with eventqCons := w &&& registerMask .eventqCons }).respond .done
  | .idr0 => s.respond .done
  | .idr1 => s.respond .done
  | .cr0ack => s.respond .done
  | .irqCtrlAck => s.respond .done
  | .gerror => s.respond .done

/-! ### The register space (R35, R53, R83) -/

/-- What lies at an access of the register space. -/
inductive BusTarget
  | register (d : SecurityState) (r : RegName)
  | nothing
  | part
  deriving DecidableEq, Repr

/-- The access touches a byte of the register. -/
def slotTouches (t : RegSlot) (offset size : Nat) : Bool :=
  decide (t.offset < offset + size) && decide (offset < t.offset + t.reg.bytes)

/-- The access is to the whole register and nothing else (R360, D6). -/
def slotIsExactly (t : RegSlot) (offset size : Nat) : Bool :=
  decide (t.offset = offset) && decide (t.reg.bytes = size)

/-- Which register an access of the register space is to (R35); an access that touches none is to no register (R53), one
that touches a register without being exactly it is a partial access (R83). -/
def busTarget (map : List RegSlot) (offset size : Nat) : BusTarget :=
  match map.find? (fun t => slotIsExactly t offset size) with
  | some t => .register t.sec t.reg
  | none => if map.any (fun t => slotTouches t offset size) then .part else .nothing

end Sys2Proof.Machine
end

