-- ==== Sys2Proof/Machine/Inputs.lean ====
section
/-! DEFINITION. The top-level operations (20_memory.md R88) as the block takes them up, one by one, when it is idle, and
the system reset (70_reset_and_hazards.md R431). -/

namespace Sys2Proof.Machine

/-- One Domain's part of the reset: SMMUEN goes to 0 and cascades (R431). -/
def State.resetDomain (s : State) (d : SecurityState) : State :=
  (s.setDom d { s.dom d with cr0 := RegField.smmuen.set 0#1 (s.dom d).cr0 }).forDomainCtls d
    (Controller.setEnabled s.cfg false)

/-- `Reset()` (R431): "reset clears `Enabled` only"; everything else keeps its value. -/
def State.systemReset (s : State) : State := (s.resetDomain .secure).resetDomain .nonSecure

/-- Takes up one top-level operation. It completes at once, unless it starts a drain or a walk. -/
def State.perform (s : State) : Input → Host.Outcome State Fault Refusal
  | .regRead d r => .next (s.respond (.value (s.regRead d r)))
  | .regWrite d r v => .next (s.regWrite d r v)
  | .busRead offset size =>
    match busTarget s.cfg.regOffset offset size with
    | .register d r => .next (s.respond (.value (s.regRead d r)))
    | .nothing => .next (s.respond (.value 0))
    | .part => .refused .partialRegisterAccess
  | .busWrite offset size v =>
    match busTarget s.cfg.regOffset offset size with
    | .register d r => .next (s.regWrite d r v)
    | .nothing => .next (s.respond .done)
    | .part => .refused .partialRegisterAccess
  | .access master va kind =>
    match s.ctl? (streamOfMaster s.cfg master) with
    | some c => .next (State.access { s with response := .none } c va kind)
    | none => .refused .noController
  | .attach sid =>
    match s.ctl? sid with
    | some _ => .refused .streamAlreadyRegistered
    | none => .next ((s.register sid).respond .done)
  | .detach sid =>
    match s.ctl? sid with
    | some _ => .next ((s.unregister sid).respond .done)
    | none => .refused .streamNotRegistered
  | .reset => .next (s.systemReset.respond .done)
  | .store addr bytes => .next (State.respond { s with mem := Memory.writeBytes s.mem addr bytes } .done)
  | .memFaults ranges => .next (State.respond { s with failing := ranges } .done)

/-- The drain is over: the queue is empty and the produce write is complete (R252). -/
def State.endDrain (s : State) : State := s.respond .done

/-- Where the next command is fetched (R167): the consume index of the Domain that drains. -/
def State.commandAddr (s : State) : Addr := (s.dom s.cur).cmdAddr s.cfg

/-- The state in which the 16 bytes of a command stand at the head of the queue of Domain `s.cur`, drained next: the
produce index is one past the consume index and no access fails. -/
def State.placeCommand (s : State) (bs : List Byte) : State :=
  let D := s.dom s.cur
  State.setDom
    { s with phase := .draining, failing := [], mem := Memory.writeBytes s.mem s.commandAddr bs } s.cur
    { D with cmdqProd := RegField.index.set (advancedField (D.cmdqShift s.cfg) D.cmdqRd) D.cmdqProd }

/-- A Context Descriptor that a walk accepts in both halves: valid, 4 KiB granules, 64-bit format, tables at 0. -/
def openCd : Cd := { Cd.zero with tg1 := 0b10#2, v := true, aa64 := true }

/-- The walk at its first level with such a descriptor, for the access of `s.walk`. -/
def State.openWalk (s : State) : Walk := { s.walk with cd := openCd, level := s.cfg.startLevel, tableBase := none }

/-- Where the entry of such a walk is fetched. -/
def State.openEntryAddr (s : State) : Addr :=
  s.openWalk.entryAddr s.cfg (ttbr (selectsUpper s.walk.req.va) openCd) 12

/-- The state in which a walk reads the 8 bytes as its next entry. -/
def State.placeEntry (s : State) (bs : List Byte) : State :=
  { s with phase := .walking, walk := s.openWalk, failing := [], mem := Memory.writeBytes s.mem s.openEntryAddr bs }

end Sys2Proof.Machine
end

