-- ==== Sys2Proof/Machine/Step.lean ====
section
/-! DEFINITION. One step of the block (20_memory.md R88, log 1): a command of a drain (43_commands.md R252), an entry of
a walk (42_page_table_walker.md R211), or the start of the next top-level operation; with nothing asked, the block does
nothing (10_state.md R62). -/

namespace Sys2Proof.Machine

/-- One pass of the drain's loop (R252): peek, then execute or fail. -/
def stepDrain (s : State) : Host.Outcome State Fault Refusal :=
  match s.tryPeek s.cur with
  | .empty => .next s.endDrain
  | .aborted => .next (s.commandFailed s.cur .abort)
  | .bytes bs =>
    match decode .command bs with
    | .ok i => exec i s
    | .error e => .next (s.runUnrecognised e)

/-- One pass of the walk's loop (R211): the parameters, the entry's fetch, the entry. -/
def stepWalk (s : State) : Host.Outcome State Fault Refusal :=
  match s.walk.params with
  | none => .next (s.finishWalk (.noWindow .translation))
  | some (base, p) =>
    match s.fetch (s.walk.entryAddr s.cfg base p) pteSize with
    | none => .next (s.finishWalk (.noWindow .walkFetch))
    | some bs =>
      match decode .pageTableEntry bs with
      | .ok i => exec i s
      | .error _ => .next (s.finishWalk (.noWindow .translation))

/-- One step. -/
def step (s : State) : Host.Outcome State Fault Refusal :=
  match s.phase with
  | .draining => stepDrain s
  | .walking => stepWalk s
  | .idle =>
    match s.inputs with
    | [] => .next s
    | i :: rest => State.perform { s with inputs := rest } i

/-- `s` with the instruction of `nbits` bits `w` standing where the next step fetches: 128 bits at the head of the command
queue of the Domain that drains, 64 bits at the entry that a walk reads next (log 2). -/
def State.withFetchWord (s : State) (nbits w : Nat) : State :=
  if nbits = 64 then s.placeEntry (bytesOf pteSize w) else s.placeCommand (bytesOf cmdSize w)

end Sys2Proof.Machine
end

