-- ==== Sys2Proof/Safety.lean ====
section
/-! DEFINITION. What statements about runs of the block mean by a good state: the invariants of the spec's rules, each a
decidable predicate, and what it means that a step is safe. -/

namespace Sys2Proof.Machine

/-- `GERR_LINE` is at the level R59 gives it: GERROR_IRQEN, and GERROR.CMDQ_ERR differs from GERRORN.CMDQ_ERR. -/
def Domain.lineRight (D : Domain) : Bool :=
  D.gerrLine == (D.irqCtrl.getLsbD 0 && (D.gerror.getLsbD 0 != D.gerrorn.getLsbD 0))

/-- Only fields are stored: the bits that read 0 and ignore writes are 0 (R36, R38, R40, R41, R45, R46, R48, R49). -/
def Domain.reservedZero (D : Domain) : Bool :=
  D.cr0 &&& ~~~0xD#32 == 0 && D.irqCtrl &&& ~~~0x5#32 == 0
    && D.gerror &&& ~~~0x1#32 == 0 && D.gerrorn &&& ~~~0x1#32 == 0
    && D.cmdqProd &&& ~~~0xFFFFF#32 == 0 && D.cmdqCons &&& ~~~0x7F0FFFFF#32 == 0
    && D.eventqProd &&& ~~~0x800FFFFF#32 == 0 && D.eventqCons &&& ~~~0x800FFFFF#32 == 0

/-- Guest memory has its canonical form. -/
def State.memoryCanonical (s : State) : Bool := Memory.wf s.mem

/-- Both global-error lines are right (R59). -/
def State.linesRight (s : State) : Bool := s.secure.lineRight && s.nonSecure.lineRight

/-- No reserved register bit is stored (R361). -/
def State.reservedZero (s : State) : Bool := s.secure.reservedZero && s.nonSecure.reservedZero

/-- Every controller's `Enabled` is CR0.SMMUEN of its Domain (R56). -/
def State.enabledAgrees (s : State) : Bool := s.ctls.all (fun e => e.2.enabled == (s.dom e.2.sec).cr0.getLsbD 0)

/-- The caches and the registry are maps: keys strictly rising, a controller under its own stream id (R55, R56). -/
def State.mapsWf (s : State) : Bool :=
  Assoc.sorted s.secure.steCache && Assoc.sorted s.nonSecure.steCache && Assoc.sorted s.ctls
    && s.ctls.all (fun e => e.1 == e.2.sid.toNat)

/-- Every cached or installed window has `start < end ≤ 2^64` (R60). -/
def State.windowsWf (s : State) : Bool :=
  s.ctls.all (fun e => e.2.win.all (fun w => decide (w.start.toNat < w.stop) && decide (w.stop ≤ 2 ^ 64)))

/-- A walk under way is at a level of the loop (R211). -/
def State.walkInRange (s : State) : Bool := decide (s.phase = .walking → s.walk.level ≤ s.cfg.maxLevel)

/-! ### Frames: what a command, a failed command and an ended walk leave and change -/

/-- What only inputs and walks change: configuration, failing ranges, executing Domain, walk, inputs, free values. -/
def State.SameRest (s t : State) : Prop :=
  t.cfg = s.cfg ∧ t.failing = s.failing ∧ t.cur = s.cur ∧ t.walk = s.walk ∧ t.inputs = s.inputs
    ∧ t.freeCount = s.freeCount

/-- Every byte of guest memory reads as before. -/
def State.SameMemory (s t : State) : Prop := ∀ a : Nat, Memory.read t.mem a = Memory.read s.mem a

/-- CMDQ_CONS after an advance (R166, R168): RD counts up by one modulo `2^(q+1)` in its `q+1` bits, the bits above are
0, and every other bit of the register is as before; on an empty queue nothing changes. -/
def Domain.ConsAdvanced (cfg : Config) (D D' : Domain) : Prop :=
  let q := min (D.cmdqBase.toNat % 2 ^ 5) cfg.maxCmdqShift
  let produce := D.cmdqProd.toNat % 2 ^ 20
  let consume := D.cmdqCons.toNat % 2 ^ 20
  D'.cmdqCons &&& 0xFFF00000#32 = D.cmdqCons &&& 0xFFF00000#32
    ∧ D'.cmdqCons.toNat % 2 ^ 20 =
      if produce % 2 ^ (q + 1) = consume % 2 ^ (q + 1) then consume else (consume + 1) % 2 ^ (q + 1)

/-- A command of Domain `s.cur` has succeeded (R255): the consume index has advanced; the Domain's STE cache and the
controllers are as the command's own rule says; nothing else has changed. -/
def State.CommandSucceeds (s t : State) : Prop :=
  s.SameRest t ∧ s.SameMemory t ∧ t.phase = s.phase ∧ t.response = s.response
    ∧ (∀ d, d ≠ s.cur → t.dom d = s.dom d)
    ∧ t.dom s.cur = { s.dom s.cur with cmdqCons := (t.dom s.cur).cmdqCons, steCache := (t.dom s.cur).steCache }
    ∧ (s.dom s.cur).ConsAdvanced s.cfg (t.dom s.cur)

/-- A command of Domain `s.cur` has failed with an error code (R257, R409): ERR holds the code and RD is unmoved, the
error flag has toggled unless it is debounced, the line has the level of R59, the drain has stopped; nothing else has
changed. -/
def State.CommandFails (s t : State) (code : BitVec 7) : Prop :=
  s.SameRest t ∧ s.SameMemory t ∧ t.ctls = s.ctls ∧ t.phase = .idle ∧ t.response = .done
    ∧ (∀ d, d ≠ s.cur → t.dom d = s.dom d)
    ∧ t.dom s.cur = { s.dom s.cur with
        cmdqCons := (t.dom s.cur).cmdqCons, gerror := (t.dom s.cur).gerror, gerrLine := (t.dom s.cur).gerrLine }
    ∧ (t.dom s.cur).cmdqCons.extractLsb' 24 7 = code
    ∧ (t.dom s.cur).cmdqCons &&& 0x80FFFFFF#32 = (s.dom s.cur).cmdqCons &&& 0x80FFFFFF#32
    ∧ (t.dom s.cur).gerror &&& 0xFFFFFFFE#32 = (s.dom s.cur).gerror &&& 0xFFFFFFFE#32
    ∧ (t.dom s.cur).gerror.getLsbD 0 =
        (if s.cfg.cmdqErrDebounce && ((s.dom s.cur).gerror.getLsbD 0 != (s.dom s.cur).gerrorn.getLsbD 0)
        then (s.dom s.cur).gerror.getLsbD 0 else !(s.dom s.cur).gerror.getLsbD 0)
    ∧ (t.dom s.cur).gerrLine =
        ((s.dom s.cur).irqCtrl.getLsbD 0 && ((t.dom s.cur).gerror.getLsbD 0 != (s.dom s.cur).gerrorn.getLsbD 0))

/-- The controllers of Domain `d` have the windows that `keep` keeps, and are otherwise as before; the controllers of the
other Domain are as before (R277, R322). -/
def State.WindowsKept (s t : State) (d : SecurityState) (keep : Window → Bool) : Prop :=
  ∀ k : Nat, Assoc.get? t.ctls k =
    (Assoc.get? s.ctls k).map (fun c => if c.sec = d then { c with win := c.win.filter keep } else c)

/-- What a back-end answers when there is no window (R325, R332). -/
def Backend.denial : Backend → Response
  | .software => .deny
  | .hardwareAssisted => .externalAbort

/-- The state after `Fault(k)` (R199): the event is signalled to the stream's Domain, and the master gets the back-end's
denial. -/
def State.afterFault (s : State) (r : Request) (k : FaultKind) (priv record : Bool) : State :=
  (s.signalEvent r.sec (makeEvent k r.sid r.va r.kind priv) record).respond (Backend.denial r.backend)

/-- The state after a failed walk (R199, R228): the fault event has the walk's privilege and is gated by the CD's record
bit under `HONOUR_CD_R` (R309). -/
def State.afterFailedWalk (s : State) (k : FaultKind) : State :=
  s.afterFault s.walk.req k s.walk.priv (s.walk.req.record && (!s.cfg.honourCdR || s.walk.cd.r))

/-- The window's permission set contains the kind (R60, R325). -/
def Window.permits (w : Window) (kind : AccessKind) : Bool :=
  (decide (kind = .read) && w.perms.read) || (decide (kind = .write) && w.perms.write)
    || (decide (kind = .execute) && w.perms.exec)

/-- The window covers the address (R60). -/
def Window.Contains (w : Window) (a : Addr) : Prop := w.start.toNat ≤ a.toNat ∧ a.toNat < w.stop

/-- The stream of a master (R8 `STREAM_OF`): its own number where the table lists none (log 3). -/
def State.streamFor (s : State) (master : Nat) : StreamId :=
  (Assoc.get? s.cfg.streamOf master).getD (BitVec.ofNat 32 master)

/-- The window of `size` bytes around `va` onto `oa`, in numbers (R221, R224). -/
def Window.IsAligned (w : Window) (va oa : Addr) (size : Nat) : Prop :=
  w.start.toNat = va.toNat / size * size ∧ w.stop = va.toNat / size * size + size
    ∧ w.offset = BitVec.ofNat 64 (oa.toNat / size * size) - w.start

/-- A step is safe when it does not fault (R424). -/
def Safe : Host.Outcome State Fault Refusal → Bool
  | .next _ => true
  | .fault _ => false
  | .refused _ => true

end Sys2Proof.Machine
end

