-- ==== Sys2Proof/Certificates/Slice0/Obligations.lean ====
section
/-! DEFINITION. The statements for the provers, in the order of OBLIGATIONS.json. Each docstring names the rules of spec/
that it formalises. -/

open Sys2Proof Sys2Proof.Machine

/-! ### Encoding -/

/-- R111, R147: decoding the encoding of a well-formed instruction gives it back, with every operand at every value.
The field positions are the spec's general-knowledge defaults (log 17). -/
def Obligations.DecodeEncodeAgree : Prop :=
  ∀ (f : Format) (i : Instr), i.wf f = true → decode f (encode i) = .ok i

/-- Words written out from the layouts of R118, R119, R121 and R142 (vectors V17, V18, V22, V42) decode to the
instructions they stand for. The positions are the spec's general-knowledge defaults (log 17). -/
def Obligations.SpecWordsDecode : Prop :=
  decode .command [0x03#8, 0x04#8, 0#8, 0#8, 0x05#8, 0#8, 0#8, 0#8, 0#8, 0#8, 0#8, 0#8, 0#8, 0#8, 0#8, 0#8]
      = .ok (.cmdCfgiSte true 5#32 false)
    ∧ decode .command [0x04#8, 0#8, 0#8, 0#8, 0x05#8, 0#8, 0#8, 0#8, 0x01#8, 0#8, 0#8, 0#8, 0#8, 0#8, 0#8, 0#8]
      = .ok (.cmdCfgiSteRange false 5#32 1#5)
    ∧ decode .command [0x12#8, 0#8, 0#8, 0#8, 0#8, 0#8, 0#8, 0#8, 0#8, 0x40#8, 0#8, 0#8, 0#8, 0#8, 0#8, 0#8]
      = .ok (.cmdTlbiNhVa 0#16 0#16 false 4#52)
    ∧ decode .pageTableEntry [0x43#8, 0x10#8, 0#8, 0#8, 0#8, 0#8, 0#8, 0#8]
      = .ok (.pteTable 0b01#2 false false 1#36 ⟨0, false, 0, false, false, false⟩ ⟨false, false, 0, false⟩)

/-- R113: every field of every layout lies inside its structure, and no two fields of one shape overlap. -/
def Obligations.LayoutFieldsFitAndDoNotOverlap : Prop :=
  (∀ i : Instr, i.format = .command → Layout.wf 128 (commandLayout i) = true)
    ∧ (∀ i : Instr, i.format = .pageTableEntry → Layout.wf 64 (pteLayout i) = true)
    ∧ Layout.wf 512 steLayout = true ∧ Layout.wf 512 cdLayout = true ∧ Layout.wf 256 eventLayout = true

/-- R112: bits of a command or an entry that no field of the selected layout names are ignored, whatever their value.
Rests on the decode half of R112. -/
def Obligations.DecodingIgnoresUnnamedBits : Prop :=
  (∀ (x y : BitVec 128) (i : Instr), decodeCommandWord x = .ok i →
      (∀ f ∈ commandLayout i, ∀ k < f.2, y.getLsbD (f.1 + k) = x.getLsbD (f.1 + k)) → decodeCommandWord y = .ok i)
    ∧ ∀ x y : BitVec 64,
      (∀ f ∈ pteLayout (decodePteWord x), ∀ k < f.2, y.getLsbD (f.1 + k) = x.getLsbD (f.1 + k)) →
        decodePteWord y = decodePteWord x

/-! ### A step runs the decoded instruction -/

/-- R167, R252, R254: draining, with a command at the head of the queue and no failing access, a step is the command's
execution; with the queue empty a step ends the drain and changes nothing else. The queue's geometry is that of R161 to
R163: the shift `q` clamped, the base naturally aligned, the command at `base + index * 16`. The wrap bit's place is the
spec's decision D9; one command a step, and the final peek as a step, are the model's choice (log 1). -/
def Obligations.StepRunsQueuedCommand : Prop :=
  ∀ s : State,
    let D := s.dom s.cur
    let q := min (D.cmdqBase.toNat % 2 ^ 5) s.cfg.maxCmdqShift
    let base := D.cmdqBase.toNat / 2 ^ 5 % 2 ^ 47 * 2 ^ 5 / 2 ^ (q + 4) * 2 ^ (q + 4)
    let produce := D.cmdqProd.toNat % 2 ^ 20
    let consume := D.cmdqCons.toNat % 2 ^ 20
    let addr := BitVec.ofNat 64 (base + consume % 2 ^ q * 16)
    s.phase = .draining →
    (produce % 2 ^ (q + 1) = consume % 2 ^ (q + 1) → step s = .next { s with phase := .idle, response := .done })
    ∧ ∀ i : Instr, produce % 2 ^ (q + 1) ≠ consume % 2 ^ (q + 1) → s.memAborts addr 16 = false →
      decode .command (Memory.readBytes s.mem addr 16) = .ok i → step s = exec i s

/-- R211 to R218: where the half that bit 55 selects is enabled and its granule encoding is not reserved, the level's
parameters are the table base (the last entry's, or the half's base register) and the half's granule shift `p`: 12, 14 or
16, all three legal (C2). Walking, with no failing access, a step is then the execution of the entry at
`tableBase + index * 8`, where `index` is the `p - 3` bits of the address from bit `p + (p - 3) * (MAX_LEVEL - level)` up.
One entry a step is the model's choice (log 1); the granule encodings are general knowledge (log 17). -/
def Obligations.StepRunsWalkEntry : Prop :=
  ∀ s : State,
    let va := s.walk.req.va
    let cd := s.walk.cd
    let upper := va.getLsbD 55
    let base := s.walk.tableBase.getD (BitVec.ofNat 64 ((if upper then cd.ttb1 else cd.ttb0).toNat * 16))
    let p :=
      if upper then if cd.tg1 = 0b10#2 then 12 else if cd.tg1 = 0b01#2 then 14 else 16
      else if cd.tg0 = 0b00#2 then 12 else if cd.tg0 = 0b10#2 then 14 else 16
    let index := va.toNat / 2 ^ (p + (p - 3) * (s.cfg.maxLevel - s.walk.level)) % 2 ^ (p - 3)
    let addr := base + BitVec.ofNat 64 (index * 8)
    (if upper then cd.epd1 = false ∧ cd.tg1 ≠ 0b00#2 else cd.epd0 = false ∧ cd.tg0 ≠ 0b11#2) →
    s.walk.params = some (base, p)
    ∧ ∀ i : Instr, s.phase = .walking → s.memAborts addr 8 = false →
      decode .pageTableEntry (Memory.readBytes s.mem addr 8) = .ok i → step s = exec i s

/-- A word placed where the next step fetches is the instruction that the next step runs, in every state with legal
parameters; `withFetchWord` is the model's own (log 2). R88, R62: idle, a step takes up the next top-level operation, and
with none asked it changes nothing. The list of operations and one of them a step are the model's choice (log 2). -/
def Obligations.StepRunsPlacedWord : Prop :=
  (∀ (s : State) (nbits w : Nat) (i : Instr), s.cfg.wf = true → decodeTableWord nbits w = some i →
    step (s.withFetchWord nbits w) = exec i (s.withFetchWord nbits w))
  ∧ ∀ s : State, s.phase = .idle →
    (s.inputs = [] → step s = .next s)
    ∧ ∀ (i : Input) (rest : List Input), s.inputs = i :: rest → step s = State.perform { s with inputs := rest } i

/-- R128, R278, R283: at the head of the queue, an opcode outside the recognised set fails with code 1 (`Illegal`) and
stops the drain, unless it is one of `EXTRA_NOP_OPCODES`: then it succeeds and does nothing. EXTRA_NOP_OPCODES (R283) is
the spec's own decision D13, the toggle its decision D15; one step for one command is the model's choice (log 1). The
head is that of R161 to R163 (D9). -/
def Obligations.UnrecognisedOpcodeFailsOrIsExtraNop : Prop :=
  ∀ (s : State) (op : Byte),
    let D := s.dom s.cur
    let q := min (D.cmdqBase.toNat % 2 ^ 5) s.cfg.maxCmdqShift
    let base := D.cmdqBase.toNat / 2 ^ 5 % 2 ^ 47 * 2 ^ 5 / 2 ^ (q + 4) * 2 ^ (q + 4)
    let produce := D.cmdqProd.toNat % 2 ^ 20
    let consume := D.cmdqCons.toNat % 2 ^ 20
    let addr := BitVec.ofNat 64 (base + consume % 2 ^ q * 16)
    s.cfg.wf = true → s.phase = .draining → produce % 2 ^ (q + 1) ≠ consume % 2 ^ (q + 1) →
    s.memAborts addr 16 = false →
    decode .command (Memory.readBytes s.mem addr 16) = .error (.unrecognisedOpcode op) →
    ∃ t, step s = .next t ∧
      if op ∈ s.cfg.extraNopOpcodes then
        s.CommandSucceeds t ∧ (t.dom s.cur).steCache = (s.dom s.cur).steCache ∧ t.ctls = s.ctls
      else s.CommandFails t 1#7

/-- R115, R128: the opcodes that decode are the eighteen of the table and no other. The numbers are the spec's
general-knowledge defaults (log 17). -/
def Obligations.RecognisedOpcodesAreTheTable : Prop :=
  ∀ x : BitVec 128,
    ((∃ i, decodeCommandWord x = .ok i) ↔
      x.toNat % 256 ∈ [0x01, 0x02, 0x03, 0x04, 0x10, 0x11, 0x12, 0x13, 0x18, 0x1A, 0x20, 0x21, 0x22, 0x23, 0x28, 0x2A, 0x30, 0x46])
    ∧ ∀ i, decodeCommandWord x = .ok i → i.format = .command ∧ i.opcode.toNat = x.toNat % 256

/-- R281, R257, R96: a failing command fetch is the error `Abort` (code 2). An access fails only with `MEM_CAN_ABORT`, and
then where one of its bytes lies in a range that the collaborator has named. Rests on the spec's decisions D24 and D15 and
on log 10; the head of the queue is that of R161 to R163 (D9). -/
def Obligations.FailingCommandFetchIsAbort : Prop :=
  ∀ s : State,
    let D := s.dom s.cur
    let q := min (D.cmdqBase.toNat % 2 ^ 5) s.cfg.maxCmdqShift
    let base := D.cmdqBase.toNat / 2 ^ 5 % 2 ^ 47 * 2 ^ 5 / 2 ^ (q + 4) * 2 ^ (q + 4)
    let produce := D.cmdqProd.toNat % 2 ^ 20
    let consume := D.cmdqCons.toNat % 2 ^ 20
    let addr := BitVec.ofNat 64 (base + consume % 2 ^ q * 16)
    (∀ (a : Addr) (n : Nat), s.memAborts a n = true ↔ s.cfg.memCanAbort = true ∧
      ∃ k < n, ∃ r ∈ s.failing, r.1 ≤ (a + BitVec.ofNat 64 k).toNat ∧ (a + BitVec.ofNat 64 k).toNat < r.2)
    ∧ (s.phase = .draining → produce % 2 ^ (q + 1) ≠ consume % 2 ^ (q + 1) → s.memAborts addr 16 = true →
      ∃ t, step s = .next t ∧ s.CommandFails t 2#7)

/-! ### Commands: result, frame and completion -/

/-- R253, R260, R261: a prefetch hint with a compatible tag succeeds and changes nothing but the consume index; with
an incompatible tag it fails with `Illegal`. Rests on the spec's decisions D30 (no effect) and D14 (the tag). -/
def Obligations.PrefetchHintsOnlyAdvance : Prop :=
  ∀ (s : State) (ssec ssv : Bool) (sub : BitVec 20) (sid : StreamId) (size stride : BitVec 5) (address : BitVec 52)
    (i : Instr), s.cfg.wf = true →
    i = .cmdPrefetchConfig ssec ssv sub sid ∨ i = .cmdPrefetchAddr ssec ssv sub sid size stride address →
    ∃ t, exec i s = .next t ∧
      if (s.cur, if ssec then SecurityState.secure else SecurityState.nonSecure) ∈ s.cfg.secCompat then
        s.CommandSucceeds t ∧ (t.dom s.cur).steCache = (s.dom s.cur).steCache ∧ t.ctls = s.ctls
      else s.CommandFails t 1#7

/-- R279: CMD_SYNC succeeds and changes nothing but the consume index, whatever its fields. The log line of a non-zero
CS is not state (log 9). -/
def Obligations.SyncOnlyAdvances : Prop :=
  ∀ (s : State) (cs : BitVec 2) (data : BitVec 32) (addr : BitVec 50), s.cfg.wf = true →
    ∃ t, exec (.cmdSync cs data addr) s = .next t ∧ s.CommandSucceeds t
      ∧ (t.dom s.cur).steCache = (s.dom s.cur).steCache ∧ t.ctls = s.ctls

/-- R262, R253, R257: CMD_CFGI_STE removes the one stream id from the executing Domain's STE cache and touches no window;
with an incompatible tag it fails with `Illegal`. The tag's check is the spec's decision D14, the toggle its D15. -/
def Obligations.CfgiSteRemovesItsStream : Prop :=
  ∀ (s : State) (ssec leaf : Bool) (sid : StreamId), s.cfg.wf = true →
    ∃ t, exec (.cmdCfgiSte ssec sid leaf) s = .next t ∧
      if (s.cur, if ssec then SecurityState.secure else SecurityState.nonSecure) ∈ s.cfg.secCompat then
        s.CommandSucceeds t ∧ t.ctls = s.ctls
          ∧ ∀ k : Nat, Assoc.get? (t.dom s.cur).steCache k =
            if k = sid.toNat then none else Assoc.get? (s.dom s.cur).steCache k
      else s.CommandFails t 1#7

/-- R263, R253: CMD_CFGI_STE_RANGE removes the aligned block of `2^(Range+1)` stream ids that contains StreamID. The
field is from general knowledge (log 17), the tag's check the spec's decision D14. -/
def Obligations.CfgiSteRangeRemovesItsBlock : Prop :=
  ∀ (s : State) (ssec : Bool) (sid : StreamId) (range : BitVec 5), s.cfg.wf = true →
    ∃ t, exec (.cmdCfgiSteRange ssec sid range) s = .next t ∧
      if (s.cur, if ssec then SecurityState.secure else SecurityState.nonSecure) ∈ s.cfg.secCompat then
        s.CommandSucceeds t ∧ t.ctls = s.ctls
          ∧ ∀ k : Nat, Assoc.get? (t.dom s.cur).steCache k =
            if k / 2 ^ (range.toNat + 1) = sid.toNat / 2 ^ (range.toNat + 1) then none
            else Assoc.get? (s.dom s.cur).steCache k
      else s.CommandFails t 1#7

/-- R264, R265, R268, R270, R271, R274, R276, R277: each TLB invalidate without an address succeeds and empties the
window set of every controller of the executing Domain. That a Domain's own controllers are meant is the spec's
decision D20; R268's opcode is its decision D13. -/
def Obligations.TlbiAllEmptiesTheDomain : Prop :=
  ∀ (s : State) (vmid asid : BitVec 16) (i : Instr), s.cfg.wf = true →
    i ∈ [.cmdTlbiNhAll vmid asid, .cmdTlbiNhAsid vmid asid, .cmdTlbiEl3All vmid asid, .cmdTlbiEl2All vmid asid,
      .cmdTlbiEl2Asid vmid asid, .cmdTlbiS12Vmall vmid asid, .cmdTlbiNsnhAll vmid asid] →
    ∃ t, exec i s = .next t ∧ s.CommandSucceeds t ∧ (t.dom s.cur).steCache = (s.dom s.cur).steCache
      ∧ s.WindowsKept t s.cur (fun _ => false)

/-- R266, R267, R269, R272, R273, R275, R277, R322: each TLB invalidate with an address succeeds and drops, in every
controller of the executing Domain, the windows that contain `Address << 12`, and no other. That a Domain's own
controllers are meant is the spec's decision D20; which windows go is its D21. -/
def Obligations.TlbiVaDropsTheCoveringWindows : Prop :=
  ∀ (s : State) (vmid asid : BitVec 16) (leaf : Bool) (address : BitVec 52) (i : Instr), s.cfg.wf = true →
    i ∈ [.cmdTlbiNhVa vmid asid leaf address, .cmdTlbiNhVaa vmid asid leaf address, .cmdTlbiEl3Va vmid asid leaf address,
      .cmdTlbiEl2Va vmid asid leaf address, .cmdTlbiEl2Vaa vmid asid leaf address, .cmdTlbiS2Ipa vmid asid leaf address] →
    ∃ t, exec i s = .next t ∧ s.CommandSucceeds t ∧ (t.dom s.cur).steCache = (s.dom s.cur).steCache
      ∧ s.WindowsKept t s.cur
        (fun w => !(decide (w.start.toNat ≤ address.toNat * 4096) && decide (address.toNat * 4096 < w.stop)))

/-- R259, R408, R416, R417, R277: no command changes guest memory, an event queue register (EVENTQ_BASE, EVENTQ_PROD,
EVENTQ_CONS) or the pulses of an event line; it changes nothing of the other Domain, nor any controller of the other
Domain. Rests on the spec's decisions D20 and D14. -/
def Obligations.CommandsStayInTheirDomain : Prop :=
  ∀ (i : Instr) (s t : State), i.format = .command → exec i s = .next t →
    t.mem = s.mem
    ∧ (∀ d, (t.dom d).eventqBase = (s.dom d).eventqBase ∧ (t.dom d).eventqProd = (s.dom d).eventqProd
      ∧ (t.dom d).eventqCons = (s.dom d).eventqCons ∧ (t.dom d).evtqPulses = (s.dom d).evtqPulses)
    ∧ (∀ d, d ≠ s.cur → t.dom d = s.dom d)
    ∧ ∀ (k : Nat) (c : Controller), Assoc.get? s.ctls k = some c → c.sec ≠ s.cur → Assoc.get? t.ctls k = some c

/-! ### Page-table entries -/

/-- R212, R214, R215, R227: an Invalid entry fails the walk with a translation fault. -/
def Obligations.InvalidEntryFailsTheWalk : Prop :=
  ∀ s : State, exec .pteInvalid00 s = .next (s.afterFailedWalk .translation)
    ∧ exec .pteInvalid10 s = .next (s.afterFailedWalk .translation)

/-- R219 to R221, R229: a Block entry ends the walk: a translation fault where a Block may not stand, an address-size
fault where its output address has a bit of the mask that AA64 selects, else the window of `2^vaShift` bytes with Read
and Write. Which levels forbid a Block, and that level 0 does not, is the spec's decision D29, the mask its decision
D12. -/
def Obligations.BlockEntryEndsTheWalk : Prop :=
  ∀ (s : State) (ap : BitVec 2) (pxn uxn : Bool) (oa : BitVec 36) (attrs : PteAttrs) (base : Addr) (p : Nat),
    let out := BitVec.ofNat 64 (oa.toNat * 4096)
    let mask := if s.walk.cd.aa64 then s.cfg.oaReservedMask64 else s.cfg.oaReservedMask32
    s.walk.params = some (base, p) →
    if s.walk.level > 2 ∨ (s.walk.level = 1 ∧ p ≠ 12) then
      exec (.pteBlock ap pxn uxn oa attrs) s = .next (s.afterFailedWalk .translation)
    else if out &&& mask ≠ 0#64 then
      exec (.pteBlock ap pxn uxn oa attrs) s = .next (s.afterFailedWalk .addrSize)
    else
      ∃ w : Window, w.IsAligned s.walk.req.va out (2 ^ (p + (p - 3) * (s.cfg.maxLevel - s.walk.level)))
        ∧ w.perms = ⟨true, true, false⟩
        ∧ exec (.pteBlock ap pxn uxn oa attrs) s = .next (s.finishAccess s.walk.req (some w))

/-- R222, R229: a Table entry below the last level gives the next table's base, or fails with an address-size fault where
its output address has a bit of the mask that AA64 selects; nothing but the walk changes. The mask is the spec's
decision D12. -/
def Obligations.TableEntryBelowLastLevelDescends : Prop :=
  ∀ (s : State) (ap : BitVec 2) (pxn uxn : Bool) (oa : BitVec 36) (attrs : PteAttrs) (hier : PteHier) (base : Addr)
    (p : Nat),
    let out := BitVec.ofNat 64 (oa.toNat * 4096)
    let mask := if s.walk.cd.aa64 then s.cfg.oaReservedMask64 else s.cfg.oaReservedMask32
    s.walk.params = some (base, p) → s.walk.level < s.cfg.maxLevel →
    exec (.pteTable ap pxn uxn oa attrs hier) s = .next
      (if out &&& mask ≠ 0#64 then s.afterFailedWalk .addrSize
      else { s with walk := { s.walk with level := s.walk.level + 1, tableBase := some out } })

/-- R223 to R225, R229: a Table entry at the last level is a page: the window of `2^p` bytes with the permissions of
AP, PXN, UXN and the privilege, or an address-size fault where its output address has a bit of the mask that AA64
selects. The permission table is R143's, from general knowledge (log 17), the mask the spec's decision D12. -/
def Obligations.TableEntryAtLastLevelIsAPage : Prop :=
  ∀ (s : State) (ap : BitVec 2) (pxn uxn : Bool) (oa : BitVec 36) (attrs : PteAttrs) (hier : PteHier) (base : Addr)
    (p : Nat),
    let out := BitVec.ofNat 64 (oa.toNat * 4096)
    let mask := if s.walk.cd.aa64 then s.cfg.oaReservedMask64 else s.cfg.oaReservedMask32
    s.walk.params = some (base, p) → s.walk.level = s.cfg.maxLevel →
    if out &&& mask ≠ 0#64 then
      exec (.pteTable ap pxn uxn oa attrs hier) s = .next (s.afterFailedWalk .addrSize)
    else
      ∃ w : Window, w.IsAligned s.walk.req.va out (2 ^ p)
        ∧ w.perms.read = (s.walk.priv || decide (ap = 0b01#2) || decide (ap = 0b11#2))
        ∧ w.perms.write = (decide (ap = 0b01#2) || (s.walk.priv && decide (ap = 0b00#2)))
        ∧ w.perms.exec = !(if s.walk.priv then pxn else uxn)
        ∧ exec (.pteTable ap pxn uxn oa attrs hier) s = .next (s.finishAccess s.walk.req (some w))

/-- R214, R215: where the selected half is disabled or its granule encoding is reserved, the level has no parameters, and a
step of the walk fails it with a translation fault before any entry is read. R395, R96 (the spec's decision D24): in every
other case (R212, R213, R216, R217) where the entry's 8-byte fetch fails, a step fails the walk with `WalkFetch`. The
granule encodings are general knowledge (log 17); one entry a step is the model's choice (log 1). -/
def Obligations.DisabledHalfOrReservedGranuleFailsTheWalk : Prop :=
  ∀ s : State,
    let va := s.walk.req.va
    let cd := s.walk.cd
    let upper := va.getLsbD 55
    let base := s.walk.tableBase.getD (BitVec.ofNat 64 ((if upper then cd.ttb1 else cd.ttb0).toNat * 16))
    let p :=
      if upper then if cd.tg1 = 0b10#2 then 12 else if cd.tg1 = 0b01#2 then 14 else 16
      else if cd.tg0 = 0b00#2 then 12 else if cd.tg0 = 0b10#2 then 14 else 16
    let index := va.toNat / 2 ^ (p + (p - 3) * (s.cfg.maxLevel - s.walk.level)) % 2 ^ (p - 3)
    let addr := base + BitVec.ofNat 64 (index * 8)
    let refused : Prop := if upper then cd.epd1 = true ∨ cd.tg1 = 0b00#2 else cd.epd0 = true ∨ cd.tg0 = 0b11#2
    (refused → s.walk.params = none ∧ (s.phase = .walking → step s = .next (s.afterFailedWalk .translation)))
    ∧ (¬refused → s.phase = .walking → s.memAborts addr 8 = true → step s = .next (s.afterFailedWalk .walkFetch))

/-- R211, R230, R232: the steps of a walk end it after at most `MAX_LEVEL - level + 1` entry reads, with the result of
the loop of R211 read as one function of the memory. One entry a step is the model's choice (log 1). -/
def Obligations.StepsOfAWalkAreTheWalk : Prop :=
  ∀ s : State, s.phase = .walking → s.walk.level ≤ s.cfg.maxLevel →
    ∃ (n : Nat) (w : Walk), n ≤ s.cfg.maxLevel - s.walk.level + 1
      ∧ w.req = s.walk.req ∧ w.cd = s.walk.cd ∧ w.priv = s.walk.priv
      ∧ Host.Core.run Sys2Proof.core n s = .next
        (State.finishWalk { s with walk := w } (Walk.result s (s.cfg.maxLevel - s.walk.level + 1) s.walk))

/-- R60, R221, R224: the window of a successful walk is well-formed and covers the address. That every granule and
level fits 64 bits rests on log 12. -/
def Obligations.WalkWindowCoversItsAddress : Prop :=
  ∀ (s : State) (n : Nat) (w : Walk) (win : Window), s.cfg.wf = true → Walk.result s n w = .window win →
    win.start.toNat ≤ w.req.va.toNat ∧ w.req.va.toNat < win.stop ∧ win.stop ≤ 2 ^ 64

/-! ### Controllers -/

/-- R325, R326: the software controller caches the window whether or not it permits the access; a permitted access is
allowed at `address + offset`, with no other change; any other access is denied with one permission event, privileged
unless the stream's cached STE says Unprivileged (R326, R396). The walk's answer as a step of its own is the model's choice
(log 1), the event's layout the spec's decision D5. -/
def Obligations.SoftwareControllerJudgesByTheWindow : Prop :=
  ∀ (s : State) (r : Request) (w : Window), r.backend = .software →
    let t := s.finishAccess r (some w)
    let priv :=
      (Assoc.get? (s.dom r.sec).steCache r.sid.toNat).elim true (fun ste => decide (ste.privCfg ≠ .unprivileged))
    let e := makeEvent .permission r.sid r.va r.kind priv
    (∀ k : Nat, Assoc.get? t.ctls k =
      if k = r.sid.toNat then
        (Assoc.get? s.ctls k).map (fun c => { c with win := if w ∈ c.win then c.win else c.win ++ [w] })
      else Assoc.get? s.ctls k)
    ∧ s.SameRest t ∧ t.phase = .idle
    ∧ if w.permits r.kind = true then
        t.response = .allow (r.va + w.offset) ∧ s.SameMemory t ∧ ∀ d, t.dom d = s.dom d
      else
        t.response = .deny ∧ t.mem = (s.signalEvent r.sec e true).mem
          ∧ ∀ d, t.dom d = (s.signalEvent r.sec e true).dom d

/-- R332, R333: the first phase of the fault hook installs the window (R331: one already there changes nothing) and asks
for a retry; a violation signals one permission event and sets the skip flag (with `EverySuccessfulWalk` every first
phase sets it); the other windows and the other controllers stay. The event is privileged unless the stream's cached STE
says Unprivileged (R326, R396; D5). When the flag is set is the spec's decision D22, the
set without a limit its decision D21. -/
def Obligations.FirstFaultInstallsAndRetries : Prop :=
  ∀ (s : State) (r : Request) (w : Window) (c : Controller), r.backend = .hardwareAssisted →
    Assoc.get? s.ctls r.sid.toNat = some c →
    let t := s.finishAccess r (some w)
    let priv :=
      (Assoc.get? (s.dom r.sec).steCache r.sid.toNat).elim true (fun ste => decide (ste.privCfg ≠ .unprivileged))
    let e := makeEvent .permission r.sid r.va r.kind priv
    t.response = .retry ∧ t.phase = .idle ∧ s.SameRest t
    ∧ (∀ k : Nat, Assoc.get? t.ctls k =
        if k = r.sid.toNat then
          some { c with
            win := if w ∈ c.win then c.win else c.win ++ [w]
            skipped := c.skipped || !w.permits r.kind || decide (s.cfg.skipSetOn = .everySuccessfulWalk) }
        else Assoc.get? s.ctls k)
    ∧ t.mem = (s.signalEvent r.sec e (!w.permits r.kind)).mem
    ∧ ∀ d, t.dom d = (s.signalEvent r.sec e (!w.permits r.kind)).dom d

/-- R332, R334, R336: with the skip flag set, the next access that no window permits is aborted, whatever its address:
the flag is cleared and nothing else changes: no walk, no event, no memory access. The window check before the hook is
R330's (log 15). -/
def Obligations.SecondFaultAbortsWithoutAWalk : Prop :=
  ∀ (s : State) (master : Nat) (va : Addr) (kind : AccessKind) (c : Controller),
    Assoc.get? s.ctls (s.streamFor master).toNat = some c → c.sid = s.streamFor master →
    c.enabled = true → c.backend = .hardwareAssisted → c.skipped = true →
    (¬∃ w ∈ c.win, w.Contains va ∧ w.permits kind = true) →
    ∃ t, s.perform (.access master va kind) = .next t ∧ t.response = .externalAbort ∧ t.phase = .idle ∧ s.SameRest t
      ∧ s.SameMemory t ∧ (∀ d, t.dom d = s.dom d)
      ∧ ∀ k : Nat, Assoc.get? t.ctls k =
        if k = c.sid.toNat then some { c with skipped := false } else Assoc.get? s.ctls k

/-- R335 (the source's T6): of two consecutive faults at one address, the first a violation of the window its walk gave,
the first makes one permission event and asks for a retry, the second makes none and ends in an external abort. The event
is privileged unless the stream's cached STE says Unprivileged (R326, R396; D5). R335 is the spec's derivation; the re-run
is a new input (log 15). -/
def Obligations.TwoFaultsAbortOnTheSecond : Prop :=
  ∀ (s : State) (master : Nat) (r : Request) (w : Window) (c : Controller), r.backend = .hardwareAssisted →
    r.sid = s.streamFor master → Assoc.get? s.ctls r.sid.toNat = some c → c.sid = r.sid →
    c.backend = .hardwareAssisted → c.enabled = true →
    (¬∃ v ∈ c.win, v.Contains r.va ∧ v.permits r.kind = true) → w.permits r.kind = false →
    let t := s.finishAccess r (some w)
    let priv :=
      (Assoc.get? (s.dom r.sec).steCache r.sid.toNat).elim true (fun ste => decide (ste.privCfg ≠ .unprivileged))
    let e := makeEvent .permission r.sid r.va r.kind priv
    t.response = .retry ∧ t.mem = (s.signalEvent r.sec e true).mem
      ∧ (∀ d, t.dom d = (s.signalEvent r.sec e true).dom d)
      ∧ ∃ u, t.perform (.access master r.va r.kind) = .next u ∧ u.response = .externalAbort ∧ u.mem = t.mem
        ∧ ∀ d, u.dom d = t.dom d

/-- R323: an access through a disabled controller is allowed at its own address, and nothing else happens. The spec's
decision D23. -/
def Obligations.DisabledControllerPassesThrough : Prop :=
  ∀ (s : State) (master : Nat) (va : Addr) (kind : AccessKind) (c : Controller),
    Assoc.get? s.ctls (s.streamFor master).toNat = some c → c.enabled = false →
    s.perform (.access master va kind) = .next { s with phase := .idle, response := .allow va }

/-- R325, R326, R330, R332: in an enabled controller a window that covers the address serves the access without a
translation: in the software back-end any covering window, by R325's judgement (an access it does not permit is denied
with one permission event); in the hardware-assisted one only a window that also permits the kind. Without such a window
(and, in the hardware-assisted back-end, with the skip flag clear) the access is translated, and its faults recorded. The
event is privileged unless the stream's cached STE says Unprivileged (R396; D5).
Which of several windows serves is free (U8, log 7); the CPU's window check before the hook is log 15's. -/
def Obligations.CachedWindowServesTheAccess : Prop :=
  ∀ (s : State) (master : Nat) (va : Addr) (kind : AccessKind) (c : Controller),
    Assoc.get? s.ctls (s.streamFor master).toNat = some c → c.enabled = true →
    let covering := fun w : Window => w ∈ c.win ∧ w.Contains va
    let priv :=
      (Assoc.get? (s.dom c.sec).steCache c.sid.toNat).elim true (fun ste => decide (ste.privCfg ≠ .unprivileged))
    let e := makeEvent .permission c.sid va kind priv
    let translated := State.beginTranslate { s with response := .none }
      { sid := c.sid, sec := c.sec, backend := c.backend, va := va, kind := kind, record := true }
    (c.backend = .software → (∃ w, covering w) →
      ∃ w t, covering w ∧ s.perform (.access master va kind) = .next t
        ∧ t.phase = .idle ∧ t.ctls = s.ctls ∧ t.inputs = s.inputs
        ∧ (∀ d, (t.dom d).steCache = (s.dom d).steCache)
        ∧ if w.permits kind = true then
            t.response = .allow (va + w.offset) ∧ t.mem = s.mem ∧ ∀ d, t.dom d = s.dom d
          else
            t.response = .deny ∧ t.mem = (s.signalEvent c.sec e true).mem
              ∧ ∀ d, t.dom d = (s.signalEvent c.sec e true).dom d)
    ∧ (c.backend = .software → (¬∃ w, covering w) → s.perform (.access master va kind) = .next translated)
    ∧ (c.backend = .hardwareAssisted → (∃ w, covering w ∧ w.permits kind = true) →
      ∃ w n, covering w ∧ w.permits kind = true
        ∧ s.perform (.access master va kind) =
          .next { s with phase := .idle, response := .allow (va + w.offset), freeCount := n })
    ∧ (c.backend = .hardwareAssisted → (¬∃ w, covering w ∧ w.permits kind = true) → c.skipped = false →
      s.perform (.access master va kind) = .next translated)

/-- R340, R56: attaching a stream that has no controller gives it one: enabled as its Domain is, no windows, the skip
flag clear; detaching a stream that has one takes the controller and its windows away, and leaves the cached STE. Either
way every other controller and everything else stays. Attaching a stream that has one, and detaching one that has none, is
refused. All this is the spec's decision D33. An access by a master without a controller is refused too: no such access
reaches the block (log 14). -/
def Obligations.AttachMakesAFreshController : Prop :=
  ∀ (s : State) (sid : StreamId),
    (Assoc.get? s.ctls sid.toNat = none → ∃ t c, s.perform (.attach sid) = .next t
      ∧ Assoc.get? t.ctls sid.toNat = some c ∧ c.sid = sid
      ∧ c.sec = (if sid ∈ s.cfg.secureStreams then .secure else .nonSecure)
      ∧ c.backend = (if sid ∈ s.cfg.hardwareStreams then .hardwareAssisted else .software)
      ∧ c.enabled = (s.dom c.sec).cr0.getLsbD 0 ∧ c.win = [] ∧ c.skipped = false
      ∧ (∀ k : Nat, k ≠ sid.toNat → Assoc.get? t.ctls k = Assoc.get? s.ctls k)
      ∧ t.phase = .idle ∧ t.response = .done ∧ s.SameRest t ∧ s.SameMemory t ∧ ∀ d, t.dom d = s.dom d)
    ∧ (∀ c, Assoc.get? s.ctls sid.toNat = some c → ∃ t, s.perform (.detach sid) = .next t
      ∧ Assoc.get? t.ctls sid.toNat = none
      ∧ (∀ k : Nat, k ≠ sid.toNat → Assoc.get? t.ctls k = Assoc.get? s.ctls k)
      ∧ t.phase = .idle ∧ t.response = .done ∧ s.SameRest t ∧ s.SameMemory t ∧ ∀ d, t.dom d = s.dom d)
    ∧ ((Assoc.get? s.ctls sid.toNat).isSome = true → s.perform (.attach sid) = .refused .streamAlreadyRegistered)
    ∧ (Assoc.get? s.ctls sid.toNat = none → s.perform (.detach sid) = .refused .streamNotRegistered)
    ∧ ∀ (master : Nat) (va : Addr) (kind : AccessKind), Assoc.get? s.ctls (s.streamFor master).toNat = none →
      s.perform (.access master va kind) = .refused .noController

/-! ### Translation -/

/-- R191, R192, R199 to R201: a cached STE decides the translation whatever guest memory now holds: an invalid entry
or a stage-2 configuration is C_BAD_STE, Abort denies without an event, Bypass gives the identity window, and Stage 1
reads the CD afresh and starts the walk with it, or faults. What each configuration does is the spec's decisions D19
and D27. R135: the CD's fields are those of the little-endian number of its 64 bytes, at places from general knowledge
(log 17). -/
def Obligations.CachedSteDecidesTheTranslation : Prop :=
  ∀ (s : State) (m : Memory) (r : Request) (ste : Ste), Assoc.get? (s.dom r.sec).steCache r.sid.toNat = some ste →
    let u : State := { s with mem := m }
    let cdAddr := BitVec.ofNat 64 (ste.s1ContextPtr.toNat * 64)
    let cd := decodeCd (Memory.readBytes m cdAddr 64)
    let bits := leNat (Memory.readBytes m cdAddr 64)
    let priv := decide (ste.privCfg ≠ .unprivileged)
    u.beginTranslate r =
      (if ste.v = false ∨ ste.config = .stage2 ∨ ste.config = .both then u.afterFault r .badSte priv r.record
      else if ste.config = .abort then u.respond (Backend.denial r.backend)
      else if ste.config = .bypass then
        u.finishAccess r (some { start := 0, stop := 2 ^ 64, offset := 0, perms := ⟨true, true, true⟩ })
      else if u.memAborts cdAddr 64 = true then u.afterFault r .cdFetch priv r.record
      else if cd.v = false then u.afterFault r .badCd priv r.record
      else { u with phase := .walking,
                    walk := { req := r, cd := cd, priv := priv, level := u.cfg.startLevel, tableBase := none } })
    ∧ cd.v = bits.testBit 31 ∧ cd.aa64 = bits.testBit 41 ∧ cd.r = bits.testBit 45
    ∧ cd.epd0 = bits.testBit 14 ∧ cd.tg0.toNat = bits / 2 ^ 6 % 2 ^ 2 ∧ cd.ttb0.toNat = bits / 2 ^ 68 % 2 ^ 48
    ∧ cd.epd1 = bits.testBit 30 ∧ cd.tg1.toNat = bits / 2 ^ 22 % 2 ^ 2 ∧ cd.ttb1.toNat = bits / 2 ^ 132 % 2 ^ 48

/-- R190, R191, R198: a stream whose STE is not cached is looked up within the table's bounds and format, read from
`strtab_base + 64 * sid`, cached, and then used as a cached entry is; a failed lookup caches nothing. The bounds and
their outcome are the spec's decision D27. R130 to R132: the STE's fields are those of the little-endian number of its 64
bytes, at places and with values from general knowledge (log 17). -/
def Obligations.UncachedSteIsFetchedAndCached : Prop :=
  ∀ (s : State) (r : Request), Assoc.get? (s.dom r.sec).steCache r.sid.toNat = none →
    let D := s.dom r.sec
    let base := D.strtabBase.toNat / 2 ^ 6 % 2 ^ 46 * 2 ^ 6
    let addr := BitVec.ofNat 64 (base + 64 * r.sid.toNat)
    let ste := decodeSte (Memory.readBytes s.mem addr 64)
    let bits := leNat (Memory.readBytes s.mem addr 64)
    let config := bits / 2 ^ 1 % 2 ^ 3
    let privCfg := bits / 2 ^ 112 % 2 ^ 2
    s.beginTranslate r =
      (if 2 ^ s.cfg.sidBits ≤ r.sid.toNat ∨ 2 ^ (D.strtabBaseCfg.toNat % 2 ^ 6) ≤ r.sid.toNat
          ∨ D.strtabBaseCfg.toNat / 2 ^ 16 % 2 ^ 2 ≠ 0 then
        s.afterFault r .badStreamId true r.record
      else if s.memAborts addr 64 = true then s.afterFault r .steFetch true r.record
      else (s.setDom r.sec { D with steCache := Assoc.set D.steCache r.sid.toNat ste }).beginTranslate r)
    ∧ ste.v = bits.testBit 0 ∧ ste.s1ContextPtr.toNat = bits / 2 ^ 6 % 2 ^ 46
    ∧ ste.config = (if config = 0b100 then .bypass else if config = 0b101 then .stage1
        else if config = 0b110 then .stage2 else if config = 0b111 then .both else .abort)
    ∧ ste.privCfg = (if privCfg = 0b10 then .unprivileged else if privCfg = 0b11 then .privileged else .useIncoming)

/-! ### Events -/

/-- R145, R146, R396: the 32 bytes of a fault's event, as one little-endian number: the kind's identifier and the
stream id, and for the kinds that record the access its privilege, kind and address; every other bit 0. The layout is
the spec's decision D5, the identifiers general knowledge (log 17). -/
def Obligations.EventRecordFields : Prop :=
  ∀ (k : FaultKind) (sid : StreamId) (va : Addr) (kind : AccessKind) (priv : Bool),
    let bs := (makeEvent k sid va kind priv).bytes
    let eventId :=
      if k = .badStreamId then 0x02 else if k = .steFetch then 0x03 else if k = .badSte then 0x04
      else if k = .cdFetch then 0x09 else if k = .badCd then 0x0A else if k = .walkFetch then 0x0B
      else if k = .translation then 0x10 else if k = .addrSize then 0x11 else if k = .permission then 0x13 else 0
    bs.length = 32
    ∧ leNat bs = eventId + sid.toNat * 2 ^ 32 +
      if k ∈ [FaultKind.translation, .addrSize, .permission, .walkFetch] then
        priv.toNat * 2 ^ 97 + (if kind = .execute then 1 else 0) * 2 ^ 98 + (if kind = .write then 0 else 1) * 2 ^ 99
          + va.toNat * 2 ^ 128
      else 0

/-- R303: a recorded event's bytes stand at `evtq_base + index_p * EVENT_SIZE`, the produce index has advanced, the
overflow flag is untouched, and (R305) the line has pulsed exactly if the queue was empty and its interrupt enabled. The
geometry is that of R161 to R163, with the wrap bit's place of the spec's decision D9 and `EVENT_SIZE` of its D5; the
count of pulses is the model's (log 8). -/
def Obligations.RecordedEventIsWrittenAndCounted : Prop :=
  ∀ (s : State) (d : SecurityState) (e : Event),
    let D := s.dom d
    let q := min (D.eventqBase.toNat % 2 ^ 5) s.cfg.maxEvtqShift
    let base := D.eventqBase.toNat / 2 ^ 5 % 2 ^ 47 * 2 ^ 5 / 2 ^ (q + 5) * 2 ^ (q + 5)
    let produce := D.eventqProd.toNat % 2 ^ 20
    let consume := D.eventqCons.toNat % 2 ^ 20
    let addr := BitVec.ofNat 64 (base + produce % 2 ^ q * 32)
    s.cfg.wf = true → D.cr0.getLsbD 2 = true → produce % 2 ^ (q + 1) ≠ (consume + 2 ^ q) % 2 ^ (q + 1) →
    s.memAborts addr 32 = false →
    let t := s.signalEvent d e true
    Memory.readBytes t.mem addr 32 = e.bytes
    ∧ (∀ a : Nat, (∀ k < 32, a ≠ (addr + BitVec.ofNat 64 k).toNat) → Memory.read t.mem a = Memory.read s.mem a)
    ∧ (t.dom d).eventqProd.toNat % 2 ^ 20 = (produce + 1) % 2 ^ (q + 1)
    ∧ (t.dom d).eventqProd &&& 0xFFF00000#32 = D.eventqProd &&& 0xFFF00000#32
    ∧ (t.dom d).evtqPulses = D.evtqPulses +
        (if produce % 2 ^ (q + 1) = consume % 2 ^ (q + 1) ∧ D.irqCtrl.getLsbD 2 = true then 1 else 0)
    ∧ t.dom d = { D with eventqProd := (t.dom d).eventqProd, evtqPulses := (t.dom d).evtqPulses }
    ∧ (∀ d', d' ≠ d → t.dom d' = s.dom d')
    ∧ s.SameRest t ∧ t.ctls = s.ctls ∧ t.phase = s.phase ∧ t.response = s.response

/-- R304, R307: an event for a full, enabled queue is lost; OVFLG (bit 31 of EVENTQ_PROD, R48) toggles exactly if it equals
OVACKFLG (bit 31 of EVENTQ_CONS, R49, which software's write acknowledges by, R372); nothing else changes. When the queue
is full is R161 to R165, with the wrap bit's place of the spec's decision D9. -/
def Obligations.OverflowTogglesOnlyWhenAcknowledged : Prop :=
  ∀ (s : State) (d : SecurityState) (e : Event),
    let D := s.dom d
    let q := min (D.eventqBase.toNat % 2 ^ 5) s.cfg.maxEvtqShift
    let produce := D.eventqProd.toNat % 2 ^ 20
    let consume := D.eventqCons.toNat % 2 ^ 20
    D.cr0.getLsbD 2 = true → produce % 2 ^ (q + 1) = (consume + 2 ^ q) % 2 ^ (q + 1) →
    let t := s.signalEvent d e true
    (t.dom d).eventqProd.getLsbD 31 =
      (if D.eventqProd.getLsbD 31 = D.eventqCons.getLsbD 31 then !D.eventqProd.getLsbD 31 else D.eventqProd.getLsbD 31)
    ∧ (t.dom d).eventqProd &&& 0x7FFFFFFF#32 = D.eventqProd &&& 0x7FFFFFFF#32
    ∧ t.dom d = { D with eventqProd := (t.dom d).eventqProd }
    ∧ (∀ d', d' ≠ d → t.dom d' = s.dom d')
    ∧ t.mem = s.mem ∧ s.SameRest t ∧ t.ctls = s.ctls ∧ t.phase = s.phase ∧ t.response = s.response

/-- R304 (the source's T4): a second overflow before an acknowledgement changes nothing at all. The queue is full when its
indices agree and its wrap bits differ (R163, R165; the wrap bit's place is the spec's decision D9). -/
def Obligations.SecondOverflowBeforeAckIsInvisible : Prop :=
  ∀ (s : State) (d : SecurityState) (e e' : Event),
    let D := s.dom d
    let q := min (D.eventqBase.toNat % 2 ^ 5) s.cfg.maxEvtqShift
    let produce := D.eventqProd.toNat % 2 ^ 20
    let consume := D.eventqCons.toNat % 2 ^ 20
    D.cr0.getLsbD 2 = true → produce % 2 ^ (q + 1) = (consume + 2 ^ q) % 2 ^ (q + 1) →
    (s.signalEvent d e true).signalEvent d e' true = s.signalEvent d e true

/-- R302, and R301 with the spec's decision D31: with the event queue disabled, or with `record = false`,
`SignalEvent` changes nothing. R96 (D24): nor with the queue enabled and not full and the event's write failing: the event
is dropped, and OVFLG with everything else is untouched. The diagnostic is not state (log 9); which writes fail is log
10's; the geometry is that of R161 to R163 and R303 (D9, D5). -/
def Obligations.SuppressedEventChangesNothing : Prop :=
  ∀ (s : State) (d : SecurityState) (e : Event) (record : Bool),
    let D := s.dom d
    let q := min (D.eventqBase.toNat % 2 ^ 5) s.cfg.maxEvtqShift
    let base := D.eventqBase.toNat / 2 ^ 5 % 2 ^ 47 * 2 ^ 5 / 2 ^ (q + 5) * 2 ^ (q + 5)
    let produce := D.eventqProd.toNat % 2 ^ 20
    let consume := D.eventqCons.toNat % 2 ^ 20
    let addr := BitVec.ofNat 64 (base + produce % 2 ^ q * 32)
    (record = false ∨ D.cr0.getLsbD 2 = false → s.signalEvent d e record = s)
    ∧ (record = true → D.cr0.getLsbD 2 = true → produce % 2 ^ (q + 1) ≠ (consume + 2 ^ q) % 2 ^ (q + 1) →
      s.memAborts addr 32 = true → s.signalEvent d e record = s)

/-! ### Queues -/

/-- R166: advancing an index increments its packed value modulo `2^(q+1)`. -/
def Obligations.AdvanceIncrementsThePackedValue : Prop :=
  ∀ (q : Nat) (f : BitVec 20), ((queuePos q f).adv q).pack q = ((queuePos q f).pack q + 1) % 2 ^ (q + 1)

/-- R172: no index values make a queue both empty and full; and after `n` producer and `m` consumer advances from an empty
queue, with never more than the capacity held, it is empty exactly if `n = m`, full exactly if `2^q` are held. -/
def Obligations.FullExactlyAfterCapacityEnqueues : Prop :=
  (∀ p c : QueuePos, ¬(queueEmpty p c = true ∧ queueFull p c = true))
    ∧ ∀ (q n m : Nat) (f : BitVec 20), m ≤ n → n ≤ m + 2 ^ q →
      let p := (QueuePos.adv q)^[n] (queuePos q f)
      let c := (QueuePos.adv q)^[m] (queuePos q f)
      (queueEmpty p c = true ↔ n = m) ∧ (queueFull p c = true ↔ n = m + 2 ^ q)

/-- R252: a drain ends: after at most `2^(q+1)` steps (`2^(q+1) - 1` commands and the final peek) the block is idle.
The bound `2^(q+1) - 1` is R252's; one command a step is the model's choice (log 1). -/
def Obligations.DrainEnds : Prop :=
  ∀ s : State, s.cfg.wf = true → s.phase = .draining →
    ∃ (n : Nat) (t : State), n ≤ 2 ^ (min ((s.dom s.cur).cmdqBase.toNat % 2 ^ 5) s.cfg.maxCmdqShift + 1)
      ∧ Host.Core.run Sys2Proof.core n s = .next t
      ∧ t.phase = .idle

/-! ### Registers and reset -/

/-- The state after reset, from R62 and R430 (the spec's decision D8): every register is 0 but the identification
registers, which read as the configuration's values (R50, R51, R361); caches and registry are empty, the lines inactive,
nothing under way. -/
def Obligations.ResetStateIsAllZero : Prop :=
  (∀ d r, r ≠ .idr0 → r ≠ .idr1 → State.reset.regRead d r = 0)
    ∧ (∀ d, State.reset.regRead d .idr0 = State.reset.cfg.idr0.setWidth 64
      ∧ State.reset.regRead d .idr1 = State.reset.cfg.idr1.setWidth 64)
    ∧ (∀ d, (State.reset.dom d).steCache = [] ∧ (State.reset.dom d).gerrLine = false)
    ∧ State.reset.ctls = [] ∧ State.reset.phase = .idle

/-- R431, R321: reset clears SMMUEN of both Domains and disables every controller (which empties its windows if it was
enabled and `CLEAR_WINDOWS_ON_ENABLE_CHANGE`, the spec's decision D23); everything else keeps its value. -/
def Obligations.SystemResetClearsEnabledOnly : Prop :=
  ∀ s : State, ∃ t, s.perform .reset = .next t ∧ t.response = .done ∧ t.phase = .idle
    ∧ (∀ d, t.dom d = { s.dom d with cr0 := (s.dom d).cr0 &&& 0xFFFFFFFE#32 })
    ∧ s.SameMemory t ∧ s.SameRest t
    ∧ ∀ k : Nat, Assoc.get? t.ctls k = (Assoc.get? s.ctls k).map (fun c =>
        { c with enabled := false, win := if c.enabled && s.cfg.clearWindowsOnEnableChange then [] else c.win })

/-- R362, R321: a write to CR0 stores the three enables, cascades SMMUEN to the Domain's controllers, and changes nothing
else; no drain starts. That a change of `Enabled` empties the windows (`CLEAR_WINDOWS_ON_ENABLE_CHANGE`) is the spec's
decision D23. -/
def Obligations.Cr0WriteCascadesToControllers : Prop :=
  ∀ (s : State) (d : SecurityState) (v : BitVec 64), ∃ t, s.perform (.regWrite d .cr0 v) = .next t
    ∧ t.phase = .idle ∧ t.response = .done ∧ s.SameRest t ∧ s.SameMemory t
    ∧ t.dom d = { s.dom d with cr0 := v.setWidth 32 &&& 0xD#32 } ∧ (∀ d', d' ≠ d → t.dom d' = s.dom d')
    ∧ ∀ k : Nat, Assoc.get? t.ctls k = (Assoc.get? s.ctls k).map (fun c =>
        if c.sec = d ∧ c.enabled ≠ v.getLsbD 0 then
          { c with enabled := v.getLsbD 0, win := if s.cfg.clearWindowsOnEnableChange then [] else c.win }
        else c)

/-- R368, R251: a write to CMDQ_PROD stores the index, and starts the drain exactly if CMDQEN is set; with CMDQEN clear
nothing else happens. R368 drains inside the write; that the write leaves the block draining, with the drain's commands
one a step, is the model's choice (log 1). -/
def Obligations.ProduceWriteStartsTheDrain : Prop :=
  ∀ (s : State) (d : SecurityState) (v : BitVec 64), ∃ t, s.perform (.regWrite d .cmdqProd v) = .next t
    ∧ t.dom d = { s.dom d with cmdqProd := v.setWidth 32 &&& 0xFFFFF#32 } ∧ (∀ d', d' ≠ d → t.dom d' = s.dom d')
    ∧ s.SameMemory t ∧ t.ctls = s.ctls ∧ t.inputs = s.inputs ∧ t.cfg = s.cfg
    ∧ if (s.dom d).cr0.getLsbD 3 = true then t.phase = .draining ∧ t.cur = d
      else t.phase = .idle ∧ t.response = .done ∧ s.SameRest t

/-- R369 (with the spec's decision D4 for ERR): a write to CMDQ_CONS stores RD and ERR, starts no drain, and changes
nothing else. -/
def Obligations.ConsumeWriteOnlyMovesTheIndex : Prop :=
  ∀ (s : State) (d : SecurityState) (v : BitVec 64), ∃ t, s.perform (.regWrite d .cmdqCons v) = .next t
    ∧ t.phase = .idle ∧ (t.dom d).cmdqCons.extractLsb' 0 20 = v.extractLsb' 0 20
    ∧ (t.dom d).cmdqCons.extractLsb' 24 7 = v.extractLsb' 24 7
    ∧ t.dom d = { s.dom d with cmdqCons := (t.dom d).cmdqCons } ∧ (∀ d', d' ≠ d → t.dom d' = s.dom d')
    ∧ s.SameMemory t ∧ s.SameRest t ∧ t.ctls = s.ctls

/-- R360, R361, R37, R39, R85: every register reads as its stored fields with reserved bits 0, CR0ACK as CR0, IRQ_CTRLACK
as IRQ_CTRL, IDR0 and IDR1 as the configuration's values; a read answers that and has no other effect (the spec's decisions
D3 and D6). R371 to R373, with D4 and D6: a write to a base register, STRTAB_BASE_CFG or an event-queue index register
is read back in its fields; no other register of either Domain reads differently, nothing else happens. That every bit
of a base register is read back is the model's reading (log 11). -/
def Obligations.PlainRegisterWritesAreReadBack : Prop :=
  ∀ (s : State) (d : SecurityState),
    let D := s.dom d
    (∀ (r : RegName) (v : BitVec 64),
      (r, v) ∈ [(RegName.idr0, s.cfg.idr0.setWidth 64), (.idr1, s.cfg.idr1.setWidth 64),
        (.cr0, (D.cr0 &&& 0xD#32).setWidth 64), (.cr0ack, (D.cr0 &&& 0xD#32).setWidth 64),
        (.irqCtrl, (D.irqCtrl &&& 0x5#32).setWidth 64), (.irqCtrlAck, (D.irqCtrl &&& 0x5#32).setWidth 64),
        (.gerror, (D.gerror &&& 0x1#32).setWidth 64), (.gerrorn, (D.gerrorn &&& 0x1#32).setWidth 64),
        (.strtabBase, D.strtabBase), (.strtabBaseCfg, (D.strtabBaseCfg &&& 0x307FF#32).setWidth 64),
        (.cmdqBase, D.cmdqBase), (.cmdqProd, (D.cmdqProd &&& 0xFFFFF#32).setWidth 64),
        (.cmdqCons, (D.cmdqCons &&& 0x7F0FFFFF#32).setWidth 64), (.eventqBase, D.eventqBase),
        (.eventqProd, (D.eventqProd &&& 0x800FFFFF#32).setWidth 64),
        (.eventqCons, (D.eventqCons &&& 0x800FFFFF#32).setWidth 64)] →
      s.regRead d r = v ∧ s.perform (.regRead d r) = .next { s with phase := .idle, response := .value v })
    ∧ ∀ (r : RegName) (v : BitVec 64) (mask : BitVec 64),
      (r, mask) ∈ [(RegName.strtabBase, BitVec.allOnes 64), (.strtabBaseCfg, 0x307FF#64), (.cmdqBase, BitVec.allOnes 64),
        (.eventqBase, BitVec.allOnes 64), (.eventqProd, 0x800FFFFF#64), (.eventqCons, 0x800FFFFF#64)] →
      ∃ t, s.perform (.regWrite d r v) = .next t ∧ t.regRead d r = v &&& mask
        ∧ (∀ d' r', (d', r') ≠ (d, r) → t.regRead d' r' = s.regRead d' r')
        ∧ t.phase = .idle ∧ t.response = .done ∧ s.SameMemory t ∧ s.SameRest t ∧ t.ctls = s.ctls
        ∧ ∀ d', (t.dom d').steCache = (s.dom d').steCache ∧ (t.dom d').gerrLine = (s.dom d').gerrLine
          ∧ (t.dom d').evtqPulses = (s.dom d').evtqPulses

/-- R363: writes to CR0ACK, IRQ_CTRLACK, IDR0, IDR1 and GERROR change no register. -/
def Obligations.ReadOnlyRegistersIgnoreWrites : Prop :=
  ∀ (s : State) (d : SecurityState) (r : RegName) (v : BitVec 64),
    r ∈ [RegName.cr0ack, .irqCtrlAck, .idr0, .idr1, .gerror] →
    s.perform (.regWrite d r v) = .next (s.respond .done)

/-- R364, R366 (with the spec's decision D16), R59: a write to IRQ_CTRL stores both enables; a write to GERRORN stores the
acknowledge in the style of `GERROR_ACK_STYLE` (`ToggleMatch`: the value written; `Write1`: the error flag where 1 is
written, nothing where 0 is). Either way the line is recomputed at once, and nothing else changes: no pulse, no index, no
drain. After an acknowledging write in either style no error is active and the line is low. -/
def Obligations.AcknowledgeClearsTheError : Prop :=
  ∀ (s : State) (d : SecurityState) (v : BitVec 64),
    let D := s.dom d
    (∃ t, s.perform (.regWrite d .irqCtrl v) = .next t
      ∧ t.dom d = { D with
          irqCtrl := v.setWidth 32 &&& 0x5#32
          gerrLine := v.getLsbD 0 && (D.gerror.getLsbD 0 != D.gerrorn.getLsbD 0) }
      ∧ (∀ d', d' ≠ d → t.dom d' = s.dom d')
      ∧ t.phase = .idle ∧ t.response = .done ∧ s.SameMemory t ∧ s.SameRest t ∧ t.ctls = s.ctls)
    ∧ ∃ t, s.perform (.regWrite d .gerrorn v) = .next t
      ∧ (t.dom d).gerrorn.getLsbD 0 =
        (if s.cfg.ackStyle = .toggleMatch then v.getLsbD 0
        else if v.getLsbD 0 = true then D.gerror.getLsbD 0 else D.gerrorn.getLsbD 0)
      ∧ (s.cfg.ackStyle = .toggleMatch → (t.dom d).gerrorn = v.setWidth 32 &&& 0x1#32)
      ∧ (s.cfg.ackStyle = .write1 → (t.dom d).gerrorn &&& 0xFFFFFFFE#32 = D.gerrorn &&& 0xFFFFFFFE#32)
      ∧ (s.cfg.ackStyle = .write1 → v.getLsbD 0 = false → (t.dom d).gerrorn = D.gerrorn)
      ∧ (t.dom d).gerrLine = (D.irqCtrl.getLsbD 0 && (D.gerror.getLsbD 0 != (t.dom d).gerrorn.getLsbD 0))
      ∧ ((s.cfg.ackStyle = .toggleMatch ∧ v.getLsbD 0 = D.gerror.getLsbD 0)
          ∨ (s.cfg.ackStyle = .write1 ∧ v.getLsbD 0 = true) →
        (t.dom d).gerror.getLsbD 0 = (t.dom d).gerrorn.getLsbD 0 ∧ (t.dom d).gerrLine = false)
      ∧ t.dom d = { D with gerrorn := (t.dom d).gerrorn, gerrLine := (t.dom d).gerrLine }
      ∧ (∀ d', d' ≠ d → t.dom d' = s.dom d')
      ∧ t.phase = .idle ∧ t.response = .done ∧ s.SameMemory t ∧ s.SameRest t ∧ t.ctls = s.ctls

/-- R35, R53, R83, R376 (with the spec's decision D6): an access of a whole register at its offset of `REG_OFFSET` reads or
writes that register, as RegRead and RegWrite do; an access of the register space that touches no register reads 0, and
a write there changes nothing; an access that touches a register without being exactly it is refused (log 13). That the
offsets do not overlap is log 12's. R84: a store of other agents to guest memory changes its bytes and nothing else; R96:
naming the ranges whose accesses fail changes nothing else (log 10). Both as operations are the model's (log 2). -/
def Obligations.UnlistedOffsetReadsZeroAndIgnoresWrites : Prop :=
  ∀ (s : State) (v : BitVec 64),
    (s.cfg.wf = true → ∀ r ∈ s.cfg.regOffset,
      let size := if r.reg ∈ [RegName.strtabBase, .cmdqBase, .eventqBase] then 8 else 4
      s.perform (.busRead r.offset size) = s.perform (.regRead r.sec r.reg)
        ∧ s.perform (.busWrite r.offset size v) = s.perform (.regWrite r.sec r.reg v))
    ∧ (∀ offset size : Nat, 0 < size →
      (∀ r ∈ s.cfg.regOffset, r.offset + r.reg.bytes ≤ offset ∨ offset + size ≤ r.offset) →
      s.perform (.busRead offset size) = .next (s.respond (.value 0))
        ∧ s.perform (.busWrite offset size v) = .next (s.respond .done))
    ∧ (∀ offset size : Nat, (∀ r ∈ s.cfg.regOffset, ¬(r.offset = offset ∧ r.reg.bytes = size)) →
      (∃ r ∈ s.cfg.regOffset, r.offset < offset + size ∧ offset < r.offset + r.reg.bytes) →
      s.perform (.busRead offset size) = .refused .partialRegisterAccess
        ∧ s.perform (.busWrite offset size v) = .refused .partialRegisterAccess)
    ∧ (∀ (a : Addr) (bs : List Byte), bs.length ≤ 2 ^ 64 → ∃ t, s.perform (.store a bs) = .next t
      ∧ Memory.readBytes t.mem a bs.length = bs
      ∧ (∀ (k : Nat) (h : k < bs.length), Memory.read t.mem (a + BitVec.ofNat 64 k).toNat = bs[k])
      ∧ (∀ x : Nat, (∀ k < bs.length, x ≠ (a + BitVec.ofNat 64 k).toNat) → Memory.read t.mem x = Memory.read s.mem x)
      ∧ t = { s with mem := t.mem, phase := .idle, response := .done })
    ∧ ∀ ranges : List (Nat × Nat), s.perform (.memFaults ranges) =
      .next { s with failing := ranges, phase := .idle, response := .done }

/-! ### Invariants that every step keeps -/

/-- Guest memory keeps its canonical form (the model's own, log 5). -/
def Obligations.StepKeepsMemoryCanonical : Prop :=
  ∀ s t : State, s.memoryCanonical = true → step s = .next t → t.memoryCanonical = true

/-- R59: both GERR_LINEs are, after every step, at the level their inputs give. The level is the spec's decision D17.
-/
def Obligations.StepKeepsErrorLinesRight : Prop :=
  ∀ s t : State, s.linesRight = true → step s = .next t → t.linesRight = true

/-- R56: every controller's `Enabled` is, after every step, CR0.SMMUEN of its Domain. -/
def Obligations.StepKeepsEnabledFlags : Prop :=
  ∀ s t : State, s.enabledAgrees = true → step s = .next t → t.enabledAgrees = true

/-- R36, R38, R40, R41, R45, R46, R48, R49: no step stores a reserved bit of CR0, IRQ_CTRL, GERROR, GERRORN, CMDQ_PROD,
CMDQ_CONS, EVENTQ_PROD or EVENTQ_CONS. Storing only the fields of these eight is the model's reading (log 11); the base
registers and STRTAB_BASE_CFG are stored whole (R42, R44, R373). -/
def Obligations.StepKeepsReservedBitsZero : Prop :=
  ∀ s t : State, s.reservedZero = true → step s = .next t → t.reservedZero = true

/-- R60: every window a step caches or installs has `start < end ≤ 2^64`. Rests on log 12. -/
def Obligations.StepKeepsWindowsWellFormed : Prop :=
  ∀ s t : State, s.cfg.wf = true → s.windowsWf = true → step s = .next t → t.windowsWf = true

/-- R55, R56: the STE caches and the registry stay maps, each controller under its own stream id. The sorted lists are
the model's (log 22). -/
def Obligations.StepKeepsMapsWellFormed : Prop :=
  ∀ s t : State, s.mapsWf = true → step s = .next t → t.mapsWf = true

/-- R211, R230: a walk never leaves the levels of its loop. The walk in the state is the model's (log 1). -/
def Obligations.StepKeepsWalkInRange : Prop :=
  ∀ s t : State, s.cfg.wf = true → s.walkInRange = true → step s = .next t → t.walkInRange = true

/-- The state after reset meets every invariant above, and its parameters are legal. The invariants are the model's;
the parameters are log 3's. -/
def Obligations.ResetMeetsTheInvariants : Prop :=
  State.reset.cfg.wf = true ∧ State.reset.memoryCanonical = true ∧ State.reset.linesRight = true
    ∧ State.reset.enabledAgrees = true ∧ State.reset.reservedZero = true ∧ State.reset.windowsWf = true
    ∧ State.reset.mapsWf = true ∧ State.reset.walkInRange = true

/-- R424: no step faults; R8: no step changes the parameters. -/
def Obligations.StepNeverFaultsNorChangesParameters : Prop :=
  ∀ s : State, Safe (step s) = true ∧ ∀ t, step s = .next t → t.cfg = s.cfg

/-- R408: a page-table entry raises no command error: it changes no CMDQ_BASE, CMDQ_PROD, CMDQ_CONS or GERROR and no
GERR_LINE, nor an STE cache. (The EVTQ_LINE of a failed walk's event may pulse, R305.) R408 is the spec's derivation. -/
def Obligations.WalksRaiseNoCommandError : Prop :=
  ∀ (i : Instr) (s t : State), i.format = .pageTableEntry → exec i s = .next t → ∀ d,
    (t.dom d).cmdqBase = (s.dom d).cmdqBase ∧ (t.dom d).cmdqCons = (s.dom d).cmdqCons
      ∧ (t.dom d).cmdqProd = (s.dom d).cmdqProd
      ∧ (t.dom d).gerror = (s.dom d).gerror ∧ (t.dom d).gerrLine = (s.dom d).gerrLine
      ∧ (t.dom d).steCache = (s.dom d).steCache
end

