-- ==== Sys2Proof/Laws/Assoc.lean ====
section
/-! SUPPORT. The laws of the sorted finite maps: reading after each update, and the canonical form each update keeps. -/

namespace Sys2Proof.Machine

variable {α : Type}

@[simp] theorem Assoc.get?_nil (x : Nat) : Assoc.get? ([] : List (Nat × α)) x = none := rfl

theorem Assoc.get?_cons (e : Nat × α) (m : List (Nat × α)) (x : Nat) :
    Assoc.get? (e :: m) x = if e.1 = x then some e.2 else Assoc.get? m x := rfl

theorem Assoc.get?_mem {m : List (Nat × α)} {x : Nat} {v : α} (h : Assoc.get? m x = some v) : (x, v) ∈ m := by
  induction m with
  | nil => simp at h
  | cons e m ih =>
    rw [Assoc.get?_cons] at h
    split at h
    · rename_i he
      cases h
      subst he
      exact List.mem_cons_self
    · exact List.mem_cons_of_mem _ (ih h)

@[simp] theorem Assoc.get?_set_same (m : List (Nat × α)) (x : Nat) (v : α) :
    Assoc.get? (Assoc.set m x v) x = some v := by
  induction m with
  | nil => simp [Assoc.set, Assoc.get?_cons]
  | cons e m ih =>
    unfold Assoc.set
    split
    · simp [Assoc.get?_cons]
    · split
      · simp [Assoc.get?_cons]
      · rw [Assoc.get?_cons, if_neg (by simp only; omega), ih]

theorem Assoc.get?_set_other (m : List (Nat × α)) {x y : Nat} (v : α) (h : y ≠ x) :
    Assoc.get? (Assoc.set m x v) y = Assoc.get? m y := by
  induction m with
  | nil => simp [Assoc.set, Assoc.get?_cons, Ne.symm h]
  | cons e m ih =>
    unfold Assoc.set
    split
    · rw [Assoc.get?_cons, if_neg (by simpa using Ne.symm h)]
    · split
      · rename_i _ hx
        rw [Assoc.get?_cons, Assoc.get?_cons, if_neg (by simpa using Ne.symm h), if_neg (by rw [← hx]; exact Ne.symm h)]
      · rw [Assoc.get?_cons, Assoc.get?_cons, ih]

theorem Assoc.get?_eraseIf (p : Nat → Bool) (m : List (Nat × α)) (y : Nat) :
    Assoc.get? (Assoc.eraseIf p m) y = if p y then none else Assoc.get? m y := by
  induction m with
  | nil => simp [Assoc.eraseIf]
  | cons e m ih =>
    unfold Assoc.eraseIf at ih ⊢
    rw [List.filter_cons]
    split
    · rename_i he
      rw [Assoc.get?_cons, Assoc.get?_cons, ih]
      split
      · rename_i hy
        rw [← hy, if_neg (by simpa using he)]
      · rfl
    · rename_i he
      rw [Assoc.get?_cons, ih]
      split
      · rfl
      · rename_i hp
        rw [if_neg]
        intro hy
        rw [← hy] at hp
        simp [hp] at he

@[simp] theorem Assoc.get?_erase_same (m : List (Nat × α)) (x : Nat) : Assoc.get? (Assoc.erase m x) x = none := by
  simp [Assoc.erase, Assoc.get?_eraseIf]

theorem Assoc.get?_erase_other (m : List (Nat × α)) {x y : Nat} (h : y ≠ x) :
    Assoc.get? (Assoc.erase m x) y = Assoc.get? m y := by
  simp [Assoc.erase, Assoc.get?_eraseIf, h]

@[simp] theorem Assoc.get?_map (f : α → α) (m : List (Nat × α)) (y : Nat) :
    Assoc.get? (Assoc.map f m) y = (Assoc.get? m y).map f := by
  induction m with
  | nil => rfl
  | cons e m ih =>
    unfold Assoc.map at ih ⊢
    rw [List.map_cons, Assoc.get?_cons, Assoc.get?_cons, ih]
    split <;> rfl

theorem Assoc.get?_modify (m : List (Nat × α)) (x : Nat) (f : α → α) (y : Nat) :
    Assoc.get? (Assoc.modify m x f) y = if y = x then (Assoc.get? m y).map f else Assoc.get? m y := by
  induction m with
  | nil => simp [Assoc.modify]
  | cons e m ih =>
    unfold Assoc.modify at ih ⊢
    rw [List.map_cons, Assoc.get?_cons, Assoc.get?_cons, ih]
    dsimp only
    by_cases h1 : e.1 = y <;> by_cases h2 : y = x <;> simp_all

/-! ### The entries of an update -/

theorem Assoc.mem_set {m : List (Nat × α)} {x : Nat} {v : α} {e : Nat × α} (h : e ∈ Assoc.set m x v) :
    e = (x, v) ∨ e ∈ m := by
  induction m with
  | nil => simpa [Assoc.set] using h
  | cons e' m ih =>
    unfold Assoc.set at h
    split at h
    · simpa using h
    · split at h
      · rcases List.mem_cons.1 h with h | h
        · exact .inl h
        · exact .inr (List.mem_cons_of_mem _ h)
      · rcases List.mem_cons.1 h with h | h
        · exact .inr (h ▸ List.mem_cons_self)
        · rcases ih h with h | h
          · exact .inl h
          · exact .inr (List.mem_cons_of_mem _ h)

theorem Assoc.mem_eraseIf {p : Nat → Bool} {m : List (Nat × α)} {e : Nat × α} (h : e ∈ Assoc.eraseIf p m) : e ∈ m :=
  List.mem_of_mem_filter h

theorem Assoc.mem_map {f : α → α} {m : List (Nat × α)} {e : Nat × α} (h : e ∈ Assoc.map f m) :
    ∃ e' ∈ m, e = (e'.1, f e'.2) := by
  obtain ⟨e', h1, h2⟩ := List.mem_map.1 h
  exact ⟨e', h1, h2.symm⟩

theorem Assoc.mem_modify {m : List (Nat × α)} {x : Nat} {f : α → α} {e : Nat × α} (h : e ∈ Assoc.modify m x f) :
    ∃ e' ∈ m, e.1 = e'.1 ∧ (e.2 = e'.2 ∨ e.2 = f e'.2) := by
  obtain ⟨e', h1, h2⟩ := List.mem_map.1 h
  refine ⟨e', h1, ?_⟩
  rw [← h2]
  refine ⟨rfl, ?_⟩
  dsimp only
  split
  · exact .inr rfl
  · exact .inl rfl

/-! ### The canonical form -/

theorem Assoc.sorted_cons (e : Nat × α) (m : List (Nat × α)) :
    Assoc.sorted (e :: m) = true ↔ (∀ e' ∈ m, e.1 < e'.1) ∧ Assoc.sorted m = true := by
  simp [Assoc.sorted]

theorem Assoc.sorted_set {m : List (Nat × α)} (x : Nat) (v : α) (h : Assoc.sorted m = true) :
    Assoc.sorted (Assoc.set m x v) = true := by
  induction m with
  | nil => simp [Assoc.set, Assoc.sorted]
  | cons e m ih =>
    have ⟨h1, h2⟩ := (Assoc.sorted_cons e m).1 h
    unfold Assoc.set
    split
    · rename_i hx
      refine (Assoc.sorted_cons _ _).2 ⟨?_, h⟩
      intro e' he'
      rcases List.mem_cons.1 he' with rfl | he'
      · exact hx
      · exact Nat.lt_trans hx (h1 e' he')
    · split
      · rename_i hx
        refine (Assoc.sorted_cons _ _).2 ⟨?_, h2⟩
        intro e' he'
        rw [show ((x, v) : Nat × α).1 = e.1 from hx]
        exact h1 e' he'
      · refine (Assoc.sorted_cons _ _).2 ⟨?_, ih h2⟩
        intro e' he'
        rcases Assoc.mem_set he' with rfl | he'
        · dsimp only
          omega
        · exact h1 e' he'

theorem Assoc.sorted_eraseIf {m : List (Nat × α)} (p : Nat → Bool) (h : Assoc.sorted m = true) :
    Assoc.sorted (Assoc.eraseIf p m) = true := by
  induction m with
  | nil => rfl
  | cons e m ih =>
    have ⟨h1, h2⟩ := (Assoc.sorted_cons e m).1 h
    unfold Assoc.eraseIf at ih ⊢
    rw [List.filter_cons]
    split
    · exact (Assoc.sorted_cons _ _).2 ⟨fun e' he' => h1 e' (List.mem_of_mem_filter he'), ih h2⟩
    · exact ih h2

theorem Assoc.sorted_erase {m : List (Nat × α)} (x : Nat) (h : Assoc.sorted m = true) :
    Assoc.sorted (Assoc.erase m x) = true := Assoc.sorted_eraseIf _ h

theorem Assoc.sorted_map {m : List (Nat × α)} (f : α → α) (h : Assoc.sorted m = true) :
    Assoc.sorted (Assoc.map f m) = true := by
  induction m with
  | nil => rfl
  | cons e m ih =>
    have ⟨h1, h2⟩ := (Assoc.sorted_cons e m).1 h
    refine (Assoc.sorted_cons _ _).2 ⟨?_, ih h2⟩
    intro e' he'
    obtain ⟨e'', h3, rfl⟩ := Assoc.mem_map he'
    exact h1 e'' h3

theorem Assoc.sorted_modify {m : List (Nat × α)} (x : Nat) (f : α → α) (h : Assoc.sorted m = true) :
    Assoc.sorted (Assoc.modify m x f) = true := by
  induction m with
  | nil => rfl
  | cons e m ih =>
    have ⟨h1, h2⟩ := (Assoc.sorted_cons e m).1 h
    refine (Assoc.sorted_cons _ _).2 ⟨?_, ih h2⟩
    intro e' he'
    obtain ⟨e'', h3, h4, -⟩ := Assoc.mem_modify he'
    rw [h4]
    exact h1 e'' h3

end Sys2Proof.Machine
end

