-- ==== Sys2Proof/Laws/Fields.lean ====
section
/-! SUPPORT. Bit fields and bytes: reading after writing, disjoint fields, the little-endian round trip. -/

namespace Sys2Proof

theorem Field.get_put_same {w n : Nat} (f : Field w) (v : BitVec w) (h : f.lo + w ≤ n) :
    f.get (f.put v : BitVec n) = v := by
  apply BitVec.eq_of_getLsbD_eq
  intro i hi
  have h1 : f.lo + i < n := by omega
  simp [Field.get, Field.put, hi, h1]

theorem Field.get_put_disjoint {w w' n : Nat} (f : Field w) (g : Field w') (v : BitVec w')
    (h : f.lo + w ≤ g.lo ∨ g.lo + w' ≤ f.lo) : f.get (g.put v : BitVec n) = 0#w := by
  apply BitVec.eq_of_getLsbD_eq
  intro i hi
  simp only [Field.get, Field.put, BitVec.getLsbD_extractLsb', BitVec.getLsbD_shiftLeft, BitVec.getLsbD_setWidth,
    BitVec.getLsbD_zero]
  rcases h with h | h
  · have : f.lo + i < g.lo := by omega
    simp [this]
  · have : v.getLsbD (f.lo + i - g.lo) = false := BitVec.getLsbD_of_ge _ _ (by omega)
    simp [this]

@[simp] theorem Field.get_or {w n : Nat} (f : Field w) (x y : BitVec n) : f.get (x ||| y) = f.get x ||| f.get y := by
  apply BitVec.eq_of_getLsbD_eq
  intro i hi
  simp [Field.get, hi]

@[simp] theorem Field.get_zero {w n : Nat} (f : Field w) : f.get (0#n) = 0#w := by
  apply BitVec.eq_of_getLsbD_eq
  intro i hi
  simp [Field.get]

theorem Field.get_set_same {w n : Nat} (f : Field w) (v : BitVec w) (x : BitVec n) (h : f.lo + w ≤ n) :
    f.get (f.set v x) = v := by
  apply BitVec.eq_of_getLsbD_eq
  intro i hi
  have h1 : f.lo + i < n := by omega
  simp [Field.get, Field.set, Field.put, hi, h1]

theorem Field.get_set_disjoint {w w' n : Nat} (f : Field w) (g : Field w') (v : BitVec w') (x : BitVec n)
    (h : f.lo + w ≤ g.lo ∨ g.lo + w' ≤ f.lo) : f.get (g.set v x) = f.get x := by
  apply BitVec.eq_of_getLsbD_eq
  intro i hi
  by_cases hn : f.lo + i < n
  · rcases h with h | h
    · have : f.lo + i < g.lo := by omega
      simp [Field.get, Field.set, Field.put, hi, hn, this]
    · have h1 : v.getLsbD (f.lo + i - g.lo) = false := BitVec.getLsbD_of_ge _ _ (by omega)
      have h2 : ¬ f.lo + i - g.lo < w' := by omega
      simp [Field.get, Field.set, Field.put, hi, hn, h1, h2]
  · have h1 : ∀ y : BitVec n, y.getLsbD (f.lo + i) = false := fun y => BitVec.getLsbD_of_ge _ _ (by omega)
    simp [Field.get, hi, h1]

@[simp] theorem Field.flag_or {n : Nat} (f : Field 1) (x y : BitVec n) : f.flag (x ||| y) = (f.flag x || f.flag y) := by
  have h : ∀ a b : BitVec 1, ((a ||| b) == 1#1) = ((a == 1#1) || (b == 1#1)) := by decide
  simp only [Field.flag, Field.get_or, h]

theorem Field.flag_putFlag_same {n : Nat} (f : Field 1) (b : Bool) (h : f.lo + 1 ≤ n) :
    f.flag (f.putFlag b : BitVec n) = b := by
  simp only [Field.flag, Field.putFlag, Field.get_put_same f _ h]
  cases b <;> decide

theorem Field.flag_put_disjoint {w n : Nat} (f : Field 1) (g : Field w) (v : BitVec w)
    (h : f.lo + 1 ≤ g.lo ∨ g.lo + w ≤ f.lo) : f.flag (g.put v : BitVec n) = false := by
  simp [Field.flag, Field.get_put_disjoint f g v h]

theorem Field.flag_putFlag_disjoint {n : Nat} (f g : Field 1) (b : Bool) (h : f.lo + 1 ≤ g.lo ∨ g.lo + 1 ≤ f.lo) :
    f.flag (g.putFlag b : BitVec n) = false := Field.flag_put_disjoint f g _ h

theorem Field.get_putFlag_disjoint {w n : Nat} (f : Field w) (g : Field 1) (b : Bool)
    (h : f.lo + w ≤ g.lo ∨ g.lo + 1 ≤ f.lo) : f.get (g.putFlag b : BitVec n) = 0#w :=
  Field.get_put_disjoint f g _ h

theorem Field.flag_set_same {n : Nat} (f : Field 1) (b : Bool) (x : BitVec n) (h : f.lo + 1 ≤ n) :
    f.flag (f.set (BitVec.ofBool b) x) = b := by
  simp only [Field.flag, Field.get_set_same f _ x h]
  cases b <;> decide

theorem Field.flag_set_disjoint {w n : Nat} (f : Field 1) (g : Field w) (v : BitVec w) (x : BitVec n)
    (h : f.lo + 1 ≤ g.lo ∨ g.lo + w ≤ f.lo) : f.flag (g.set v x) = f.flag x := by
  simp [Field.flag, Field.get_set_disjoint f g v x h]

/-! ### Fields as numbers -/

/-- A field's value is the structure's number divided and reduced. -/
theorem Field.get_toNat {w n : Nat} (f : Field w) (x : BitVec n) :
    (f.get x).toNat = x.toNat / 2 ^ f.lo % 2 ^ w := by
  simp [Field.get, BitVec.extractLsb'_toNat, Nat.shiftRight_eq_div_pow]

/-- A flag is its bit. -/
theorem Field.flag_eq {n : Nat} (f : Field 1) (x : BitVec n) : f.flag x = x.getLsbD f.lo := by
  have h : f.get x = BitVec.ofBool (x.getLsbD f.lo) := by
    ext i hi
    interval_cases i
    simp [Field.get]
  simp only [Field.flag, h]
  cases x.getLsbD f.lo <;> decide

/-! ### Bytes -/

/-- The number of a byte string fits its bytes. -/
theorem leNat_lt : ∀ bs : List Byte, leNat bs < 256 ^ bs.length
  | [] => by simp [leNat]
  | b :: bs => by
    have h1 := leNat_lt bs
    have h2 := b.isLt
    simp only [leNat, List.length_cons, Nat.pow_succ']
    omega

@[simp] theorem length_bytesOf (n v : Nat) : (bytesOf n v).length = n := by
  induction n generalizing v with
  | zero => rfl
  | succ n ih => simp [bytesOf, ih]

/-- The bytes of an integer, read back. -/
theorem leNat_bytesOf (n v : Nat) : leNat (bytesOf n v) = v % 256 ^ n := by
  induction n generalizing v with
  | zero => simp [bytesOf, leNat, Nat.mod_one]
  | succ n ih =>
    simp only [bytesOf, leNat, ih, BitVec.toNat_ofNat]
    have h : (256 : Nat) ^ (n + 1) = 256 * 256 ^ n := Nat.pow_succ'
    rw [h]
    exact Nat.mod_mul.symm

theorem leNat_bytesOf_of_lt {n v : Nat} (h : v < 256 ^ n) : leNat (bytesOf n v) = v := by
  rw [leNat_bytesOf, Nat.mod_eq_of_lt h]

end Sys2Proof
end

