-- ==== Sys2Proof/Laws/Memory.lean ====
section
/-! SUPPORT. Guest memory: a read after a write, and the canonical form that every memory operation keeps. -/

namespace Sys2Proof.Machine

@[simp] theorem Memory.read_write_same (m : Memory) (a : Nat) (b : Byte) : Memory.read (Memory.write m a b) a = b := by
  unfold Memory.read Memory.write
  split
  · rename_i h
    simp [h]
  · simp

theorem Memory.read_write_other (m : Memory) {a x : Nat} (b : Byte) (h : x ≠ a) :
    Memory.read (Memory.write m a b) x = Memory.read m x := by
  unfold Memory.read Memory.write
  split
  · rw [Assoc.get?_erase_other m h]
  · rw [Assoc.get?_set_other m b h]

/-- The address of byte `k` of an access (R11). -/
theorem addr_succ (a : Addr) (k : Nat) : a + 1 + BitVec.ofNat 64 k = a + BitVec.ofNat 64 (k + 1) := by
  rw [BitVec.add_assoc, Nat.add_comm k 1, BitVec.ofNat_add]
  rfl

/-- A store leaves every byte outside it alone. -/
theorem Memory.read_writeBytes_other (m : Memory) (a : Addr) (bs : List Byte) {x : Nat}
    (h : ∀ k < bs.length, x ≠ (a + BitVec.ofNat 64 k).toNat) :
    Memory.read (Memory.writeBytes m a bs) x = Memory.read m x := by
  induction bs generalizing m a with
  | nil => rfl
  | cons b bs ih =>
    unfold Memory.writeBytes
    rw [ih]
    · apply Memory.read_write_other
      have := h 0 (by simp)
      simpa using this
    · intro k hk
      rw [addr_succ]
      exact h (k + 1) (by simpa using hk)

/-- A store of at most 2^64 bytes stores each of its bytes. -/
theorem Memory.read_writeBytes (m : Memory) (a : Addr) (bs : List Byte) (hlen : bs.length ≤ 2 ^ 64) {k : Nat}
    (hk : k < bs.length) : Memory.read (Memory.writeBytes m a bs) (a + BitVec.ofNat 64 k).toNat = bs[k] := by
  induction bs generalizing m a k with
  | nil => simp at hk
  | cons b bs ih =>
    unfold Memory.writeBytes
    cases k with
    | zero =>
      rw [Memory.read_writeBytes_other]
      · simp
      · intro j hj h
        rw [addr_succ] at h
        have h' := BitVec.eq_of_toNat_eq h
        have h'' := congrArg BitVec.toNat (add_left_cancel h')
        simp only [BitVec.toNat_ofNat] at h''
        simp only [List.length_cons] at hlen
        omega
    | succ k =>
      rw [← addr_succ]
      simp only [List.getElem_cons_succ]
      exact ih (m := Memory.write m a.toNat b) (a := a + 1) (by simp at hlen; omega) (by simpa using hk)

theorem Memory.length_readBytes (m : Memory) (a : Addr) (n : Nat) : (Memory.readBytes m a n).length = n := by
  induction n generalizing a with
  | zero => rfl
  | succ n ih => simp [Memory.readBytes, ih]

theorem Memory.getElem_readBytes (m : Memory) (a : Addr) (n k : Nat) (h : k < (Memory.readBytes m a n).length) :
    (Memory.readBytes m a n)[k] = Memory.read m (a + BitVec.ofNat 64 k).toNat := by
  induction n generalizing a k with
  | zero => simp [Memory.readBytes] at h
  | succ n ih =>
    cases k with
    | zero => simp [Memory.readBytes]
    | succ k =>
      simp only [Memory.readBytes, List.getElem_cons_succ]
      rw [ih, addr_succ]

/-- What is stored is what is read back. -/
theorem Memory.readBytes_writeBytes (m : Memory) (a : Addr) (bs : List Byte) (hlen : bs.length ≤ 2 ^ 64) :
    Memory.readBytes (Memory.writeBytes m a bs) a bs.length = bs := by
  apply List.ext_getElem
  · rw [Memory.length_readBytes]
  · intro k h1 h2
    rw [Memory.getElem_readBytes, Memory.read_writeBytes m a bs hlen h2]

/-! ### The canonical form -/

theorem Memory.wf_iff (m : Memory) :
    Memory.wf m = true ↔ Assoc.sorted m = true ∧ ∀ c ∈ m, c.1 < 2 ^ 64 ∧ c.2 ≠ 0#8 := by
  simp [Memory.wf]

theorem Memory.wf_write {m : Memory} {a : Nat} (b : Byte) (ha : a < 2 ^ 64) (h : Memory.wf m = true) :
    Memory.wf (Memory.write m a b) = true := by
  obtain ⟨h1, h2⟩ := (Memory.wf_iff m).1 h
  rw [Memory.wf_iff]
  unfold Memory.write
  split
  · exact ⟨Assoc.sorted_erase a h1, fun c hc => h2 c (Assoc.mem_eraseIf hc)⟩
  · rename_i hb
    refine ⟨Assoc.sorted_set a b h1, fun c hc => ?_⟩
    rcases Assoc.mem_set hc with rfl | hc
    · exact ⟨ha, hb⟩
    · exact h2 c hc

theorem Memory.wf_writeBytes {m : Memory} (a : Addr) (bs : List Byte) (h : Memory.wf m = true) :
    Memory.wf (Memory.writeBytes m a bs) = true := by
  induction bs generalizing m a with
  | nil => exact h
  | cons b bs ih => exact ih (a + 1) (Memory.wf_write b a.isLt h)

theorem State.reset_mem_wf : Memory.wf State.reset.mem = true := rfl

end Sys2Proof.Machine
end

