-- ==== Sys2Proof/Laws/State.lean ====
section
/-! SUPPORT. The small lemmas of the record updates: what each update of the state, of a Domain and of a controller
leaves and changes, field by field. -/

namespace Sys2Proof.Machine

/-! ### `setDom` -/

@[simp] theorem State.dom_secure (s : State) : s.dom .secure = s.secure := rfl
@[simp] theorem State.dom_nonSecure (s : State) : s.dom .nonSecure = s.nonSecure := rfl

@[simp] theorem State.setDom_dom_same (s : State) (d : SecurityState) (D : Domain) : (s.setDom d D).dom d = D := by
  cases d <;> rfl

theorem State.setDom_dom_other (s : State) {d e : SecurityState} (D : Domain) (h : e ≠ d) :
    (s.setDom d D).dom e = s.dom e := by
  cases d <;> cases e <;> first | rfl | exact absurd rfl h

@[simp] theorem State.setDom_secure_secure (s : State) (D : Domain) : (s.setDom .secure D).secure = D := rfl
@[simp] theorem State.setDom_secure_nonSecure (s : State) (D : Domain) :
    (s.setDom .secure D).nonSecure = s.nonSecure := rfl
@[simp] theorem State.setDom_nonSecure_secure (s : State) (D : Domain) :
    (s.setDom .nonSecure D).secure = s.secure := rfl
@[simp] theorem State.setDom_nonSecure_nonSecure (s : State) (D : Domain) :
    (s.setDom .nonSecure D).nonSecure = D := rfl

@[simp] theorem State.setDom_dom_self (s : State) (d : SecurityState) : s.setDom d (s.dom d) = s := by
  cases d <;> rfl

@[simp] theorem State.setDom_cfg (s : State) (d : SecurityState) (D : Domain) : (s.setDom d D).cfg = s.cfg := by
  cases d <;> rfl
@[simp] theorem State.setDom_ctls (s : State) (d : SecurityState) (D : Domain) : (s.setDom d D).ctls = s.ctls := by
  cases d <;> rfl
@[simp] theorem State.setDom_mem (s : State) (d : SecurityState) (D : Domain) : (s.setDom d D).mem = s.mem := by
  cases d <;> rfl
@[simp] theorem State.setDom_failing (s : State) (d : SecurityState) (D : Domain) :
    (s.setDom d D).failing = s.failing := by
  cases d <;> rfl
@[simp] theorem State.setDom_phase (s : State) (d : SecurityState) (D : Domain) : (s.setDom d D).phase = s.phase := by
  cases d <;> rfl
@[simp] theorem State.setDom_cur (s : State) (d : SecurityState) (D : Domain) : (s.setDom d D).cur = s.cur := by
  cases d <;> rfl
@[simp] theorem State.setDom_walk (s : State) (d : SecurityState) (D : Domain) : (s.setDom d D).walk = s.walk := by
  cases d <;> rfl
@[simp] theorem State.setDom_inputs (s : State) (d : SecurityState) (D : Domain) :
    (s.setDom d D).inputs = s.inputs := by
  cases d <;> rfl
@[simp] theorem State.setDom_response (s : State) (d : SecurityState) (D : Domain) :
    (s.setDom d D).response = s.response := by
  cases d <;> rfl
@[simp] theorem State.setDom_freeCount (s : State) (d : SecurityState) (D : Domain) :
    (s.setDom d D).freeCount = s.freeCount := by
  cases d <;> rfl

/-! ### `respond` -/

@[simp] theorem State.respond_cfg (s : State) (r : Response) : (s.respond r).cfg = s.cfg := rfl
@[simp] theorem State.respond_secure (s : State) (r : Response) : (s.respond r).secure = s.secure := rfl
@[simp] theorem State.respond_nonSecure (s : State) (r : Response) : (s.respond r).nonSecure = s.nonSecure := rfl
@[simp] theorem State.respond_ctls (s : State) (r : Response) : (s.respond r).ctls = s.ctls := rfl
@[simp] theorem State.respond_mem (s : State) (r : Response) : (s.respond r).mem = s.mem := rfl
@[simp] theorem State.respond_failing (s : State) (r : Response) : (s.respond r).failing = s.failing := rfl
@[simp] theorem State.respond_phase (s : State) (r : Response) : (s.respond r).phase = .idle := rfl
@[simp] theorem State.respond_cur (s : State) (r : Response) : (s.respond r).cur = s.cur := rfl
@[simp] theorem State.respond_walk (s : State) (r : Response) : (s.respond r).walk = s.walk := rfl
@[simp] theorem State.respond_inputs (s : State) (r : Response) : (s.respond r).inputs = s.inputs := rfl
@[simp] theorem State.respond_response (s : State) (r : Response) : (s.respond r).response = r := rfl
@[simp] theorem State.respond_freeCount (s : State) (r : Response) : (s.respond r).freeCount = s.freeCount := rfl
@[simp] theorem State.respond_dom (s : State) (r : Response) (e : SecurityState) : (s.respond r).dom e = s.dom e := by
  cases e <;> rfl

/-! ### `modifyCtl` -/

@[simp] theorem State.modifyCtl_cfg (s : State) (sid : StreamId) (f : Controller → Controller) :
    (s.modifyCtl sid f).cfg = s.cfg := rfl
@[simp] theorem State.modifyCtl_secure (s : State) (sid : StreamId) (f : Controller → Controller) :
    (s.modifyCtl sid f).secure = s.secure := rfl
@[simp] theorem State.modifyCtl_nonSecure (s : State) (sid : StreamId) (f : Controller → Controller) :
    (s.modifyCtl sid f).nonSecure = s.nonSecure := rfl
@[simp] theorem State.modifyCtl_ctls (s : State) (sid : StreamId) (f : Controller → Controller) :
    (s.modifyCtl sid f).ctls = Assoc.modify s.ctls sid.toNat f := rfl
@[simp] theorem State.modifyCtl_mem (s : State) (sid : StreamId) (f : Controller → Controller) :
    (s.modifyCtl sid f).mem = s.mem := rfl
@[simp] theorem State.modifyCtl_failing (s : State) (sid : StreamId) (f : Controller → Controller) :
    (s.modifyCtl sid f).failing = s.failing := rfl
@[simp] theorem State.modifyCtl_phase (s : State) (sid : StreamId) (f : Controller → Controller) :
    (s.modifyCtl sid f).phase = s.phase := rfl
@[simp] theorem State.modifyCtl_cur (s : State) (sid : StreamId) (f : Controller → Controller) :
    (s.modifyCtl sid f).cur = s.cur := rfl
@[simp] theorem State.modifyCtl_walk (s : State) (sid : StreamId) (f : Controller → Controller) :
    (s.modifyCtl sid f).walk = s.walk := rfl
@[simp] theorem State.modifyCtl_inputs (s : State) (sid : StreamId) (f : Controller → Controller) :
    (s.modifyCtl sid f).inputs = s.inputs := rfl
@[simp] theorem State.modifyCtl_response (s : State) (sid : StreamId) (f : Controller → Controller) :
    (s.modifyCtl sid f).response = s.response := rfl
@[simp] theorem State.modifyCtl_freeCount (s : State) (sid : StreamId) (f : Controller → Controller) :
    (s.modifyCtl sid f).freeCount = s.freeCount := rfl
@[simp] theorem State.modifyCtl_dom (s : State) (sid : StreamId) (f : Controller → Controller) (e : SecurityState) :
    (s.modifyCtl sid f).dom e = s.dom e := by
  cases e <;> rfl

/-! ### `forDomainCtls` -/

@[simp] theorem State.forDomainCtls_cfg (s : State) (d : SecurityState) (f : Controller → Controller) :
    (s.forDomainCtls d f).cfg = s.cfg := rfl
@[simp] theorem State.forDomainCtls_secure (s : State) (d : SecurityState) (f : Controller → Controller) :
    (s.forDomainCtls d f).secure = s.secure := rfl
@[simp] theorem State.forDomainCtls_nonSecure (s : State) (d : SecurityState) (f : Controller → Controller) :
    (s.forDomainCtls d f).nonSecure = s.nonSecure := rfl
@[simp] theorem State.forDomainCtls_ctls (s : State) (d : SecurityState) (f : Controller → Controller) :
    (s.forDomainCtls d f).ctls = Assoc.map (fun c => if c.sec = d then f c else c) s.ctls := rfl
@[simp] theorem State.forDomainCtls_mem (s : State) (d : SecurityState) (f : Controller → Controller) :
    (s.forDomainCtls d f).mem = s.mem := rfl
@[simp] theorem State.forDomainCtls_failing (s : State) (d : SecurityState) (f : Controller → Controller) :
    (s.forDomainCtls d f).failing = s.failing := rfl
@[simp] theorem State.forDomainCtls_phase (s : State) (d : SecurityState) (f : Controller → Controller) :
    (s.forDomainCtls d f).phase = s.phase := rfl
@[simp] theorem State.forDomainCtls_cur (s : State) (d : SecurityState) (f : Controller → Controller) :
    (s.forDomainCtls d f).cur = s.cur := rfl
@[simp] theorem State.forDomainCtls_walk (s : State) (d : SecurityState) (f : Controller → Controller) :
    (s.forDomainCtls d f).walk = s.walk := rfl
@[simp] theorem State.forDomainCtls_inputs (s : State) (d : SecurityState) (f : Controller → Controller) :
    (s.forDomainCtls d f).inputs = s.inputs := rfl
@[simp] theorem State.forDomainCtls_response (s : State) (d : SecurityState) (f : Controller → Controller) :
    (s.forDomainCtls d f).response = s.response := rfl
@[simp] theorem State.forDomainCtls_freeCount (s : State) (d : SecurityState) (f : Controller → Controller) :
    (s.forDomainCtls d f).freeCount = s.freeCount := rfl
@[simp] theorem State.forDomainCtls_dom (s : State) (d : SecurityState) (f : Controller → Controller) (e : SecurityState) :
    (s.forDomainCtls d f).dom e = s.dom e := by
  cases e <;> rfl

/-! ### `beginWalk` -/

@[simp] theorem State.beginWalk_cfg (s : State) (r : Request) (cd : Cd) (priv : Bool) :
    (s.beginWalk r cd priv).cfg = s.cfg := rfl
@[simp] theorem State.beginWalk_secure (s : State) (r : Request) (cd : Cd) (priv : Bool) :
    (s.beginWalk r cd priv).secure = s.secure := rfl
@[simp] theorem State.beginWalk_nonSecure (s : State) (r : Request) (cd : Cd) (priv : Bool) :
    (s.beginWalk r cd priv).nonSecure = s.nonSecure := rfl
@[simp] theorem State.beginWalk_ctls (s : State) (r : Request) (cd : Cd) (priv : Bool) :
    (s.beginWalk r cd priv).ctls = s.ctls := rfl
@[simp] theorem State.beginWalk_mem (s : State) (r : Request) (cd : Cd) (priv : Bool) :
    (s.beginWalk r cd priv).mem = s.mem := rfl
@[simp] theorem State.beginWalk_failing (s : State) (r : Request) (cd : Cd) (priv : Bool) :
    (s.beginWalk r cd priv).failing = s.failing := rfl
@[simp] theorem State.beginWalk_phase (s : State) (r : Request) (cd : Cd) (priv : Bool) :
    (s.beginWalk r cd priv).phase = .walking := rfl
@[simp] theorem State.beginWalk_cur (s : State) (r : Request) (cd : Cd) (priv : Bool) :
    (s.beginWalk r cd priv).cur = s.cur := rfl
@[simp] theorem State.beginWalk_inputs (s : State) (r : Request) (cd : Cd) (priv : Bool) :
    (s.beginWalk r cd priv).inputs = s.inputs := rfl
@[simp] theorem State.beginWalk_response (s : State) (r : Request) (cd : Cd) (priv : Bool) :
    (s.beginWalk r cd priv).response = s.response := rfl
@[simp] theorem State.beginWalk_freeCount (s : State) (r : Request) (cd : Cd) (priv : Bool) :
    (s.beginWalk r cd priv).freeCount = s.freeCount := rfl
@[simp] theorem State.beginWalk_dom (s : State) (r : Request) (cd : Cd) (priv : Bool) (e : SecurityState) :
    (s.beginWalk r cd priv).dom e = s.dom e := by
  cases e <;> rfl

/-! ### `eraseStes` and `invalidateDomain` -/

@[simp] theorem State.eraseStes_cfg (s : State) (d : SecurityState) (p : Nat → Bool) :
    (s.eraseStes d p).cfg = s.cfg := by
  simp [State.eraseStes]
@[simp] theorem State.eraseStes_mem (s : State) (d : SecurityState) (p : Nat → Bool) :
    (s.eraseStes d p).mem = s.mem := by
  simp [State.eraseStes]
@[simp] theorem State.eraseStes_failing (s : State) (d : SecurityState) (p : Nat → Bool) :
    (s.eraseStes d p).failing = s.failing := by
  simp [State.eraseStes]
@[simp] theorem State.eraseStes_phase (s : State) (d : SecurityState) (p : Nat → Bool) :
    (s.eraseStes d p).phase = s.phase := by
  simp [State.eraseStes]
@[simp] theorem State.eraseStes_cur (s : State) (d : SecurityState) (p : Nat → Bool) :
    (s.eraseStes d p).cur = s.cur := by
  simp [State.eraseStes]
@[simp] theorem State.eraseStes_walk (s : State) (d : SecurityState) (p : Nat → Bool) :
    (s.eraseStes d p).walk = s.walk := by
  simp [State.eraseStes]
@[simp] theorem State.eraseStes_inputs (s : State) (d : SecurityState) (p : Nat → Bool) :
    (s.eraseStes d p).inputs = s.inputs := by
  simp [State.eraseStes]
@[simp] theorem State.eraseStes_response (s : State) (d : SecurityState) (p : Nat → Bool) :
    (s.eraseStes d p).response = s.response := by
  simp [State.eraseStes]
@[simp] theorem State.eraseStes_freeCount (s : State) (d : SecurityState) (p : Nat → Bool) :
    (s.eraseStes d p).freeCount = s.freeCount := by
  simp [State.eraseStes]
@[simp] theorem State.eraseStes_ctls (s : State) (d : SecurityState) (p : Nat → Bool) :
    (s.eraseStes d p).ctls = s.ctls := by
  simp [State.eraseStes]
@[simp] theorem State.invalidateDomain_cfg (s : State) (d : SecurityState) (a : Option Addr) :
    (s.invalidateDomain d a).cfg = s.cfg := rfl
@[simp] theorem State.invalidateDomain_mem (s : State) (d : SecurityState) (a : Option Addr) :
    (s.invalidateDomain d a).mem = s.mem := rfl
@[simp] theorem State.invalidateDomain_failing (s : State) (d : SecurityState) (a : Option Addr) :
    (s.invalidateDomain d a).failing = s.failing := rfl
@[simp] theorem State.invalidateDomain_phase (s : State) (d : SecurityState) (a : Option Addr) :
    (s.invalidateDomain d a).phase = s.phase := rfl
@[simp] theorem State.invalidateDomain_cur (s : State) (d : SecurityState) (a : Option Addr) :
    (s.invalidateDomain d a).cur = s.cur := rfl
@[simp] theorem State.invalidateDomain_walk (s : State) (d : SecurityState) (a : Option Addr) :
    (s.invalidateDomain d a).walk = s.walk := rfl
@[simp] theorem State.invalidateDomain_inputs (s : State) (d : SecurityState) (a : Option Addr) :
    (s.invalidateDomain d a).inputs = s.inputs := rfl
@[simp] theorem State.invalidateDomain_response (s : State) (d : SecurityState) (a : Option Addr) :
    (s.invalidateDomain d a).response = s.response := rfl
@[simp] theorem State.invalidateDomain_freeCount (s : State) (d : SecurityState) (a : Option Addr) :
    (s.invalidateDomain d a).freeCount = s.freeCount := rfl
@[simp] theorem State.invalidateDomain_secure (s : State) (d : SecurityState) (a : Option Addr) :
    (s.invalidateDomain d a).secure = s.secure := rfl
@[simp] theorem State.invalidateDomain_nonSecure (s : State) (d : SecurityState) (a : Option Addr) :
    (s.invalidateDomain d a).nonSecure = s.nonSecure := rfl
@[simp] theorem State.invalidateDomain_dom (s : State) (d : SecurityState) (a : Option Addr) (e : SecurityState) :
    (s.invalidateDomain d a).dom e = s.dom e := by
  cases e <;> rfl

/-! ### `register` -/

@[simp] theorem State.register_cfg (s : State) (sid : StreamId) : (s.register sid).cfg = s.cfg := rfl
@[simp] theorem State.register_secure (s : State) (sid : StreamId) : (s.register sid).secure = s.secure := rfl
@[simp] theorem State.register_nonSecure (s : State) (sid : StreamId) : (s.register sid).nonSecure = s.nonSecure := rfl
@[simp] theorem State.register_ctls (s : State) (sid : StreamId) :
    (s.register sid).ctls = Assoc.set s.ctls sid.toNat (s.newController sid) := rfl
@[simp] theorem State.register_mem (s : State) (sid : StreamId) : (s.register sid).mem = s.mem := rfl
@[simp] theorem State.register_failing (s : State) (sid : StreamId) : (s.register sid).failing = s.failing := rfl
@[simp] theorem State.register_phase (s : State) (sid : StreamId) : (s.register sid).phase = s.phase := rfl
@[simp] theorem State.register_cur (s : State) (sid : StreamId) : (s.register sid).cur = s.cur := rfl
@[simp] theorem State.register_walk (s : State) (sid : StreamId) : (s.register sid).walk = s.walk := rfl
@[simp] theorem State.register_inputs (s : State) (sid : StreamId) : (s.register sid).inputs = s.inputs := rfl
@[simp] theorem State.register_response (s : State) (sid : StreamId) : (s.register sid).response = s.response := rfl
@[simp] theorem State.register_freeCount (s : State) (sid : StreamId) : (s.register sid).freeCount = s.freeCount := rfl
@[simp] theorem State.register_dom (s : State) (sid : StreamId) (e : SecurityState) :
    (s.register sid).dom e = s.dom e := by
  cases e <;> rfl

/-! ### `unregister` -/

@[simp] theorem State.unregister_cfg (s : State) (sid : StreamId) : (s.unregister sid).cfg = s.cfg := rfl
@[simp] theorem State.unregister_secure (s : State) (sid : StreamId) : (s.unregister sid).secure = s.secure := rfl
@[simp] theorem State.unregister_nonSecure (s : State) (sid : StreamId) :
    (s.unregister sid).nonSecure = s.nonSecure := rfl
@[simp] theorem State.unregister_ctls (s : State) (sid : StreamId) :
    (s.unregister sid).ctls = Assoc.erase s.ctls sid.toNat := rfl
@[simp] theorem State.unregister_mem (s : State) (sid : StreamId) : (s.unregister sid).mem = s.mem := rfl
@[simp] theorem State.unregister_failing (s : State) (sid : StreamId) : (s.unregister sid).failing = s.failing := rfl
@[simp] theorem State.unregister_phase (s : State) (sid : StreamId) : (s.unregister sid).phase = s.phase := rfl
@[simp] theorem State.unregister_cur (s : State) (sid : StreamId) : (s.unregister sid).cur = s.cur := rfl
@[simp] theorem State.unregister_walk (s : State) (sid : StreamId) : (s.unregister sid).walk = s.walk := rfl
@[simp] theorem State.unregister_inputs (s : State) (sid : StreamId) : (s.unregister sid).inputs = s.inputs := rfl
@[simp] theorem State.unregister_response (s : State) (sid : StreamId) : (s.unregister sid).response = s.response := rfl
@[simp] theorem State.unregister_freeCount (s : State) (sid : StreamId) :
    (s.unregister sid).freeCount = s.freeCount := rfl
@[simp] theorem State.unregister_dom (s : State) (sid : StreamId) (e : SecurityState) :
    (s.unregister sid).dom e = s.dom e := by
  cases e <;> rfl

@[simp] theorem State.beginWalk_walk (s : State) (r : Request) (cd : Cd) (priv : Bool) :
    (s.beginWalk r cd priv).walk =
      { req := r, cd := cd, priv := priv, level := s.cfg.startLevel, tableBase := none } := rfl

/-! ### `Domain.refreshGerrLine` -/

@[simp] theorem Domain.refreshGerrLine_cr0 (D : Domain) : (D.refreshGerrLine).cr0 = D.cr0 := rfl
@[simp] theorem Domain.refreshGerrLine_irqCtrl (D : Domain) : (D.refreshGerrLine).irqCtrl = D.irqCtrl := rfl
@[simp] theorem Domain.refreshGerrLine_gerror (D : Domain) : (D.refreshGerrLine).gerror = D.gerror := rfl
@[simp] theorem Domain.refreshGerrLine_gerrorn (D : Domain) : (D.refreshGerrLine).gerrorn = D.gerrorn := rfl
@[simp] theorem Domain.refreshGerrLine_strtabBase (D : Domain) : (D.refreshGerrLine).strtabBase = D.strtabBase := rfl
@[simp] theorem Domain.refreshGerrLine_strtabBaseCfg (D : Domain) :
    (D.refreshGerrLine).strtabBaseCfg = D.strtabBaseCfg := rfl
@[simp] theorem Domain.refreshGerrLine_cmdqBase (D : Domain) : (D.refreshGerrLine).cmdqBase = D.cmdqBase := rfl
@[simp] theorem Domain.refreshGerrLine_cmdqProd (D : Domain) : (D.refreshGerrLine).cmdqProd = D.cmdqProd := rfl
@[simp] theorem Domain.refreshGerrLine_cmdqCons (D : Domain) : (D.refreshGerrLine).cmdqCons = D.cmdqCons := rfl
@[simp] theorem Domain.refreshGerrLine_eventqBase (D : Domain) : (D.refreshGerrLine).eventqBase = D.eventqBase := rfl
@[simp] theorem Domain.refreshGerrLine_eventqProd (D : Domain) : (D.refreshGerrLine).eventqProd = D.eventqProd := rfl
@[simp] theorem Domain.refreshGerrLine_eventqCons (D : Domain) : (D.refreshGerrLine).eventqCons = D.eventqCons := rfl
@[simp] theorem Domain.refreshGerrLine_steCache (D : Domain) : (D.refreshGerrLine).steCache = D.steCache := rfl
@[simp] theorem Domain.refreshGerrLine_gerrLine (D : Domain) : (D.refreshGerrLine).gerrLine = D.gerrLevel := rfl
@[simp] theorem Domain.refreshGerrLine_evtqPulses (D : Domain) : (D.refreshGerrLine).evtqPulses = D.evtqPulses := rfl

/-! ### `Domain.toggleCmdqErr` -/

@[simp] theorem Domain.toggleCmdqErr_cr0 (D : Domain) : (D.toggleCmdqErr).cr0 = D.cr0 := rfl
@[simp] theorem Domain.toggleCmdqErr_irqCtrl (D : Domain) : (D.toggleCmdqErr).irqCtrl = D.irqCtrl := rfl
@[simp] theorem Domain.toggleCmdqErr_gerror (D : Domain) :
    (D.toggleCmdqErr).gerror = RegField.cmdqErr.set (BitVec.ofBool (!D.cmdqErr)) D.gerror := rfl
@[simp] theorem Domain.toggleCmdqErr_gerrorn (D : Domain) : (D.toggleCmdqErr).gerrorn = D.gerrorn := rfl
@[simp] theorem Domain.toggleCmdqErr_strtabBase (D : Domain) : (D.toggleCmdqErr).strtabBase = D.strtabBase := rfl
@[simp] theorem Domain.toggleCmdqErr_strtabBaseCfg (D : Domain) :
    (D.toggleCmdqErr).strtabBaseCfg = D.strtabBaseCfg := rfl
@[simp] theorem Domain.toggleCmdqErr_cmdqBase (D : Domain) : (D.toggleCmdqErr).cmdqBase = D.cmdqBase := rfl
@[simp] theorem Domain.toggleCmdqErr_cmdqProd (D : Domain) : (D.toggleCmdqErr).cmdqProd = D.cmdqProd := rfl
@[simp] theorem Domain.toggleCmdqErr_cmdqCons (D : Domain) : (D.toggleCmdqErr).cmdqCons = D.cmdqCons := rfl
@[simp] theorem Domain.toggleCmdqErr_eventqBase (D : Domain) : (D.toggleCmdqErr).eventqBase = D.eventqBase := rfl
@[simp] theorem Domain.toggleCmdqErr_eventqProd (D : Domain) : (D.toggleCmdqErr).eventqProd = D.eventqProd := rfl
@[simp] theorem Domain.toggleCmdqErr_eventqCons (D : Domain) : (D.toggleCmdqErr).eventqCons = D.eventqCons := rfl
@[simp] theorem Domain.toggleCmdqErr_steCache (D : Domain) : (D.toggleCmdqErr).steCache = D.steCache := rfl
@[simp] theorem Domain.toggleCmdqErr_gerrLine (D : Domain) : (D.toggleCmdqErr).gerrLine = D.gerrLine := rfl
@[simp] theorem Domain.toggleCmdqErr_evtqPulses (D : Domain) : (D.toggleCmdqErr).evtqPulses = D.evtqPulses := rfl

/-! ### `Domain.advanceRd` -/

@[simp] theorem Domain.advanceRd_cr0 (D : Domain) (cfg : Config) : (Domain.advanceRd cfg D).cr0 = D.cr0 := rfl
@[simp] theorem Domain.advanceRd_irqCtrl (D : Domain) (cfg : Config) :
    (Domain.advanceRd cfg D).irqCtrl = D.irqCtrl := rfl
@[simp] theorem Domain.advanceRd_gerror (D : Domain) (cfg : Config) : (Domain.advanceRd cfg D).gerror = D.gerror := rfl
@[simp] theorem Domain.advanceRd_gerrorn (D : Domain) (cfg : Config) :
    (Domain.advanceRd cfg D).gerrorn = D.gerrorn := rfl
@[simp] theorem Domain.advanceRd_strtabBase (D : Domain) (cfg : Config) :
    (Domain.advanceRd cfg D).strtabBase = D.strtabBase := rfl
@[simp] theorem Domain.advanceRd_strtabBaseCfg (D : Domain) (cfg : Config) :
    (Domain.advanceRd cfg D).strtabBaseCfg = D.strtabBaseCfg := rfl
@[simp] theorem Domain.advanceRd_cmdqBase (D : Domain) (cfg : Config) :
    (Domain.advanceRd cfg D).cmdqBase = D.cmdqBase := rfl
@[simp] theorem Domain.advanceRd_cmdqProd (D : Domain) (cfg : Config) :
    (Domain.advanceRd cfg D).cmdqProd = D.cmdqProd := rfl
@[simp] theorem Domain.advanceRd_cmdqCons (D : Domain) (cfg : Config) :
    (Domain.advanceRd cfg D).cmdqCons = RegField.index.set (advancedField (D.cmdqShift cfg) D.cmdqRd) D.cmdqCons := rfl
@[simp] theorem Domain.advanceRd_eventqBase (D : Domain) (cfg : Config) :
    (Domain.advanceRd cfg D).eventqBase = D.eventqBase := rfl
@[simp] theorem Domain.advanceRd_eventqProd (D : Domain) (cfg : Config) :
    (Domain.advanceRd cfg D).eventqProd = D.eventqProd := rfl
@[simp] theorem Domain.advanceRd_eventqCons (D : Domain) (cfg : Config) :
    (Domain.advanceRd cfg D).eventqCons = D.eventqCons := rfl
@[simp] theorem Domain.advanceRd_steCache (D : Domain) (cfg : Config) :
    (Domain.advanceRd cfg D).steCache = D.steCache := rfl
@[simp] theorem Domain.advanceRd_gerrLine (D : Domain) (cfg : Config) :
    (Domain.advanceRd cfg D).gerrLine = D.gerrLine := rfl
@[simp] theorem Domain.advanceRd_evtqPulses (D : Domain) (cfg : Config) :
    (Domain.advanceRd cfg D).evtqPulses = D.evtqPulses := rfl

/-! ### `Domain.advanceWr` -/

@[simp] theorem Domain.advanceWr_cr0 (D : Domain) (cfg : Config) : (Domain.advanceWr cfg D).cr0 = D.cr0 := rfl
@[simp] theorem Domain.advanceWr_irqCtrl (D : Domain) (cfg : Config) :
    (Domain.advanceWr cfg D).irqCtrl = D.irqCtrl := rfl
@[simp] theorem Domain.advanceWr_gerror (D : Domain) (cfg : Config) : (Domain.advanceWr cfg D).gerror = D.gerror := rfl
@[simp] theorem Domain.advanceWr_gerrorn (D : Domain) (cfg : Config) :
    (Domain.advanceWr cfg D).gerrorn = D.gerrorn := rfl
@[simp] theorem Domain.advanceWr_strtabBase (D : Domain) (cfg : Config) :
    (Domain.advanceWr cfg D).strtabBase = D.strtabBase := rfl
@[simp] theorem Domain.advanceWr_strtabBaseCfg (D : Domain) (cfg : Config) :
    (Domain.advanceWr cfg D).strtabBaseCfg = D.strtabBaseCfg := rfl
@[simp] theorem Domain.advanceWr_cmdqBase (D : Domain) (cfg : Config) :
    (Domain.advanceWr cfg D).cmdqBase = D.cmdqBase := rfl
@[simp] theorem Domain.advanceWr_cmdqProd (D : Domain) (cfg : Config) :
    (Domain.advanceWr cfg D).cmdqProd = D.cmdqProd := rfl
@[simp] theorem Domain.advanceWr_cmdqCons (D : Domain) (cfg : Config) :
    (Domain.advanceWr cfg D).cmdqCons = D.cmdqCons := rfl
@[simp] theorem Domain.advanceWr_eventqBase (D : Domain) (cfg : Config) :
    (Domain.advanceWr cfg D).eventqBase = D.eventqBase := rfl
@[simp] theorem Domain.advanceWr_eventqProd (D : Domain) (cfg : Config) :
    (Domain.advanceWr cfg D).eventqProd = RegField.index.set (advancedField (D.evtqShift cfg) D.evtqWr) D.eventqProd := rfl
@[simp] theorem Domain.advanceWr_eventqCons (D : Domain) (cfg : Config) :
    (Domain.advanceWr cfg D).eventqCons = D.eventqCons := rfl
@[simp] theorem Domain.advanceWr_steCache (D : Domain) (cfg : Config) :
    (Domain.advanceWr cfg D).steCache = D.steCache := rfl
@[simp] theorem Domain.advanceWr_gerrLine (D : Domain) (cfg : Config) :
    (Domain.advanceWr cfg D).gerrLine = D.gerrLine := rfl
@[simp] theorem Domain.advanceWr_evtqPulses (D : Domain) (cfg : Config) :
    (Domain.advanceWr cfg D).evtqPulses = D.evtqPulses := rfl

/-! ### Controllers -/

@[simp] theorem Controller.setSkipped_sid (c : Controller) (b : Bool) : (Controller.setSkipped b c).sid = c.sid := rfl
@[simp] theorem Controller.setSkipped_sec (c : Controller) (b : Bool) : (Controller.setSkipped b c).sec = c.sec := rfl
@[simp] theorem Controller.setSkipped_backend (c : Controller) (b : Bool) :
    (Controller.setSkipped b c).backend = c.backend := rfl
@[simp] theorem Controller.setSkipped_enabled (c : Controller) (b : Bool) :
    (Controller.setSkipped b c).enabled = c.enabled := rfl
@[simp] theorem Controller.setSkipped_win (c : Controller) (b : Bool) : (Controller.setSkipped b c).win = c.win := rfl
@[simp] theorem Controller.setSkipped_skipped (c : Controller) (b : Bool) :
    (Controller.setSkipped b c).skipped = b := rfl
@[simp] theorem Controller.invalidateTlb_sid (c : Controller) (a : Option Addr) : (c.invalidateTlb a).sid = c.sid := by
  cases a <;> rfl
@[simp] theorem Controller.invalidateTlb_sec (c : Controller) (a : Option Addr) : (c.invalidateTlb a).sec = c.sec := by
  cases a <;> rfl
@[simp] theorem Controller.invalidateTlb_backend (c : Controller) (a : Option Addr) :
    (c.invalidateTlb a).backend = c.backend := by
  cases a <;> rfl
@[simp] theorem Controller.invalidateTlb_enabled (c : Controller) (a : Option Addr) :
    (c.invalidateTlb a).enabled = c.enabled := by
  cases a <;> rfl
@[simp] theorem Controller.invalidateTlb_skipped (c : Controller) (a : Option Addr) :
    (c.invalidateTlb a).skipped = c.skipped := by
  cases a <;> rfl
@[simp] theorem Controller.addWindow_sid (c : Controller) (w : Window) : (Controller.addWindow w c).sid = c.sid := by
  unfold Controller.addWindow
  split <;> rfl
@[simp] theorem Controller.addWindow_sec (c : Controller) (w : Window) : (Controller.addWindow w c).sec = c.sec := by
  unfold Controller.addWindow
  split <;> rfl
@[simp] theorem Controller.addWindow_backend (c : Controller) (w : Window) :
    (Controller.addWindow w c).backend = c.backend := by
  unfold Controller.addWindow
  split <;> rfl
@[simp] theorem Controller.addWindow_enabled (c : Controller) (w : Window) :
    (Controller.addWindow w c).enabled = c.enabled := by
  unfold Controller.addWindow
  split <;> rfl
@[simp] theorem Controller.addWindow_skipped (c : Controller) (w : Window) :
    (Controller.addWindow w c).skipped = c.skipped := by
  unfold Controller.addWindow
  split <;> rfl
@[simp] theorem Controller.setEnabled_sid (c : Controller) (cfg : Config) (b : Bool) :
    (Controller.setEnabled cfg b c).sid = c.sid := by
  unfold Controller.setEnabled
  split
  · rfl
  · dsimp only
    split <;> simp
@[simp] theorem Controller.setEnabled_sec (c : Controller) (cfg : Config) (b : Bool) :
    (Controller.setEnabled cfg b c).sec = c.sec := by
  unfold Controller.setEnabled
  split
  · rfl
  · dsimp only
    split <;> simp
@[simp] theorem Controller.setEnabled_backend (c : Controller) (cfg : Config) (b : Bool) :
    (Controller.setEnabled cfg b c).backend = c.backend := by
  unfold Controller.setEnabled
  split
  · rfl
  · dsimp only
    split <;> simp
@[simp] theorem Controller.setEnabled_enabled (c : Controller) (cfg : Config) (b : Bool) :
    (Controller.setEnabled cfg b c).enabled = b := by
  unfold Controller.setEnabled
  split
  · assumption
  · dsimp only
    split <;> simp
@[simp] theorem Controller.setEnabled_skipped (c : Controller) (cfg : Config) (b : Bool) :
    (Controller.setEnabled cfg b c).skipped = c.skipped := by
  unfold Controller.setEnabled
  split
  · rfl
  · dsimp only
    split <;> simp

end Sys2Proof.Machine
end

