-- ==== Sys2Proof/Laws/Ops.lean ====
section
/-! SUPPORT. One lemma per shared operation that says once everything it can do, and what each leaves alone. -/

namespace Sys2Proof.Machine

/-! ### Events -/

/-- Everything that `SignalEvent` can do: nothing; note an overflow; or record the event, with or without a pulse. -/
theorem State.signalEvent_cases (s : State) (d : SecurityState) (e : Event) (record : Bool) :
    ((record && (s.dom d).eventqen) = false ∧ s.signalEvent d e record = s)
    ∨ ((record && (s.dom d).eventqen) = true ∧ (s.dom d).evtqFull s.cfg = true
        ∧ s.signalEvent d e record = s.setDom d (s.dom d).noteOverflow)
    ∨ ((record && (s.dom d).eventqen) = true ∧ (s.dom d).evtqFull s.cfg = false
        ∧ s.memAborts ((s.dom d).evtAddr s.cfg) eventSize = true ∧ s.signalEvent d e record = s)
    ∨ ((record && (s.dom d).eventqen) = true ∧ (s.dom d).evtqFull s.cfg = false
        ∧ s.memAborts ((s.dom d).evtAddr s.cfg) eventSize = false
        ∧ s.signalEvent d e record =
          State.setDom { s with mem := Memory.writeBytes s.mem ((s.dom d).evtAddr s.cfg) e.bytes } d
            { (s.dom d).advanceWr s.cfg with
              evtqPulses := (s.dom d).evtqPulses +
                if (s.dom d).evtqEmpty s.cfg && (s.dom d).eventqIrqen then 1 else 0 }) := by
  unfold State.signalEvent
  by_cases h : (record && (s.dom d).eventqen) = true
  · rw [if_pos h]
    refine .inr ?_
    unfold State.tryEnqueue
    by_cases hf : (s.dom d).evtqFull s.cfg = true
    · exact .inl ⟨h, hf, by simp [hf]⟩
    · rw [Bool.not_eq_true] at hf
      refine .inr ?_
      by_cases ha : s.memAborts ((s.dom d).evtAddr s.cfg) eventSize = true
      · exact .inl ⟨h, hf, ha, by simp [hf, ha]⟩
      · rw [Bool.not_eq_true] at ha
        refine .inr ⟨h, hf, ha, ?_⟩
        simp only [hf, ha, Bool.false_eq_true, if_false]
        by_cases hp : ((s.dom d).evtqEmpty s.cfg && (s.dom d).eventqIrqen) = true
        · simp only [hp, if_true, State.pulse]
          cases d <;> rfl
        · simp only [hp]
          cases d <;> rfl
  · rw [if_neg h]
    rw [Bool.not_eq_true] at h
    exact .inl ⟨h, rfl⟩

/-- The parts of the state that `SignalEvent` leaves alone. -/
theorem State.signalEvent_frame (s : State) (d : SecurityState) (e : Event) (record : Bool) :
    (s.signalEvent d e record).cfg = s.cfg ∧ (s.signalEvent d e record).ctls = s.ctls
    ∧ (s.signalEvent d e record).failing = s.failing ∧ (s.signalEvent d e record).phase = s.phase
    ∧ (s.signalEvent d e record).cur = s.cur ∧ (s.signalEvent d e record).walk = s.walk
    ∧ (s.signalEvent d e record).inputs = s.inputs ∧ (s.signalEvent d e record).response = s.response
    ∧ (s.signalEvent d e record).freeCount = s.freeCount := by
  rcases s.signalEvent_cases d e record with ⟨-, h⟩ | ⟨-, -, h⟩ | ⟨-, -, -, h⟩ | ⟨-, -, -, h⟩ <;> rw [h] <;> simp

@[simp] theorem State.signalEvent_cfg (s : State) (d : SecurityState) (e : Event) (b : Bool) :
    (s.signalEvent d e b).cfg = s.cfg := (s.signalEvent_frame d e b).1
@[simp] theorem State.signalEvent_ctls (s : State) (d : SecurityState) (e : Event) (b : Bool) :
    (s.signalEvent d e b).ctls = s.ctls := (s.signalEvent_frame d e b).2.1
@[simp] theorem State.signalEvent_failing (s : State) (d : SecurityState) (e : Event) (b : Bool) :
    (s.signalEvent d e b).failing = s.failing := (s.signalEvent_frame d e b).2.2.1
@[simp] theorem State.signalEvent_phase (s : State) (d : SecurityState) (e : Event) (b : Bool) :
    (s.signalEvent d e b).phase = s.phase := (s.signalEvent_frame d e b).2.2.2.1
@[simp] theorem State.signalEvent_cur (s : State) (d : SecurityState) (e : Event) (b : Bool) :
    (s.signalEvent d e b).cur = s.cur := (s.signalEvent_frame d e b).2.2.2.2.1
@[simp] theorem State.signalEvent_walk (s : State) (d : SecurityState) (e : Event) (b : Bool) :
    (s.signalEvent d e b).walk = s.walk := (s.signalEvent_frame d e b).2.2.2.2.2.1
@[simp] theorem State.signalEvent_inputs (s : State) (d : SecurityState) (e : Event) (b : Bool) :
    (s.signalEvent d e b).inputs = s.inputs := (s.signalEvent_frame d e b).2.2.2.2.2.2.1
@[simp] theorem State.signalEvent_response (s : State) (d : SecurityState) (e : Event) (b : Bool) :
    (s.signalEvent d e b).response = s.response := (s.signalEvent_frame d e b).2.2.2.2.2.2.2.1
@[simp] theorem State.signalEvent_freeCount (s : State) (d : SecurityState) (e : Event) (b : Bool) :
    (s.signalEvent d e b).freeCount = s.freeCount := (s.signalEvent_frame d e b).2.2.2.2.2.2.2.2

/-- What `SignalEvent` can do to a Domain: only EVENTQ_PROD and the pulse count change. -/
theorem State.signalEvent_dom (s : State) (d : SecurityState) (e : Event) (record : Bool) (d' : SecurityState) :
    (s.signalEvent d e record).dom d' =
      { s.dom d' with
        eventqProd := ((s.signalEvent d e record).dom d').eventqProd
        evtqPulses := ((s.signalEvent d e record).dom d').evtqPulses } := by
  rcases s.signalEvent_cases d e record with ⟨-, h⟩ | ⟨-, -, h⟩ | ⟨-, -, -, h⟩ | ⟨-, -, -, h⟩
  · rw [h]
  · rw [h]
    by_cases hd : d' = d
    · subst hd
      rw [State.setDom_dom_same]
      unfold Domain.noteOverflow
      split <;> rfl
    · rw [State.setDom_dom_other _ _ hd]
  · rw [h]
  · rw [h]
    by_cases hd : d' = d
    · subst hd
      rw [State.setDom_dom_same]
      rfl
    · rw [State.setDom_dom_other _ _ hd]
      cases d' <;> rfl

/-- `SignalEvent` does not look at the controllers, the phase or the answer. -/
theorem State.signalEvent_modifyCtl (s : State) (d : SecurityState) (e : Event) (record : Bool) (sid : StreamId)
    (f : Controller → Controller) :
    (s.modifyCtl sid f).signalEvent d e record = (s.signalEvent d e record).modifyCtl sid f := by
  have hm : ∀ a n, (s.modifyCtl sid f).memAborts a n = s.memAborts a n := fun _ _ => rfl
  unfold State.signalEvent State.tryEnqueue
  simp only [State.modifyCtl_dom, State.modifyCtl_cfg, hm, State.modifyCtl_mem]
  split
  · split <;> rename_i h
    · split at h
      · cases h
      · split at h
        · cases h
        · cases h
          simp only [*, if_false, Bool.false_eq_true]
          split <;> cases d <;> rfl
    · split at h
      · simp only [*]
        cases d <;> rfl
      · split at h <;> cases h
    · split at h
      · cases h
      · split at h
        · simp only [*, if_true, if_false, Bool.false_eq_true]
        · cases h
  · rfl

/-! ### Fetches -/

/-- Everything a structure fetch can answer (R84, R96): nothing where the access fails, else `n` bytes of memory. -/
theorem State.fetch_cases (s : State) (a : Addr) (n : Nat) :
    (s.memAborts a n = true ∧ s.fetch a n = none)
    ∨ (s.memAborts a n = false ∧ s.fetch a n = some (Memory.readBytes s.mem a n)) := by
  unfold State.fetch
  cases s.memAborts a n <;> simp

/-- Everything a peek can find (R167). -/
theorem State.tryPeek_cases (s : State) (d : SecurityState) :
    ((s.dom d).cmdqEmpty s.cfg = true ∧ s.tryPeek d = .empty)
    ∨ ((s.dom d).cmdqEmpty s.cfg = false ∧ s.memAborts ((s.dom d).cmdAddr s.cfg) cmdSize = true
        ∧ s.tryPeek d = .aborted)
    ∨ ((s.dom d).cmdqEmpty s.cfg = false ∧ s.memAborts ((s.dom d).cmdAddr s.cfg) cmdSize = false
        ∧ s.tryPeek d = .bytes (Memory.readBytes s.mem ((s.dom d).cmdAddr s.cfg) cmdSize)) := by
  unfold State.tryPeek
  cases he : (s.dom d).cmdqEmpty s.cfg with
  | true => exact .inl ⟨rfl, by simp⟩
  | false =>
    rcases s.fetch_cases ((s.dom d).cmdAddr s.cfg) cmdSize with ⟨hm, e⟩ | ⟨hm, e⟩
    · exact .inr (.inl ⟨rfl, hm, by simp [e]⟩)
    · exact .inr (.inr ⟨rfl, hm, by simp [e]⟩)

/-! ### Commands -/

/-- The security tag of a command, if its layout has one (R253). -/
def commandTag : Instr → Option SecurityState
  | .cmdPrefetchConfig ssec .. | .cmdPrefetchAddr ssec .. | .cmdCfgiSte ssec .. | .cmdCfgiSteRange ssec .. =>
    some (securityTag ssec)
  | .cmdTlbiNhAll .. | .cmdTlbiNhAsid .. | .cmdTlbiNhVa .. | .cmdTlbiNhVaa .. | .cmdTlbiEl3All .. | .cmdTlbiEl3Va ..
  | .cmdTlbiEl2All .. | .cmdTlbiEl2Asid .. | .cmdTlbiEl2Va .. | .cmdTlbiEl2Vaa .. | .cmdTlbiS12Vmall ..
  | .cmdTlbiS2Ipa .. | .cmdTlbiNsnhAll .. | .cmdSync .. | .pteBlock .. | .pteTable .. | .pteInvalid00
  | .pteInvalid10 => none

/-- The effect of a command before the consume index advances (R259 to R279). -/
def commandEffect : Instr → State → State
  | .cmdCfgiSte _ sid _ => fun t => t.eraseStes t.cur (fun k => k == sid.toNat)
  | .cmdCfgiSteRange _ sid range => fun t => t.eraseStes t.cur (inStreamRange sid range)
  | .cmdTlbiNhAll .. | .cmdTlbiNhAsid .. | .cmdTlbiEl3All .. | .cmdTlbiEl2All .. | .cmdTlbiEl2Asid ..
  | .cmdTlbiS12Vmall .. | .cmdTlbiNsnhAll .. => fun t => t.invalidateDomain t.cur none
  | .cmdTlbiNhVa _ _ _ a | .cmdTlbiNhVaa _ _ _ a | .cmdTlbiEl3Va _ _ _ a | .cmdTlbiEl2Va _ _ _ a
  | .cmdTlbiEl2Vaa _ _ _ a | .cmdTlbiS2Ipa _ _ _ a => fun t => t.invalidateDomain t.cur (some (addressOperand a))
  | .cmdPrefetchConfig .. | .cmdPrefetchAddr .. | .cmdSync .. | .pteBlock .. | .pteTable .. | .pteInvalid00
  | .pteInvalid10 => fun t => t

/-- Every command is one pass of the drain over its tag and its effect. -/
theorem exec_command {i : Instr} (h : i.format = .command) (s : State) :
    exec i s = .next (s.runCommand (commandTag i) (commandEffect i)) := by
  cases i <;> first | rfl | exact absurd h (by simp [Instr.format])

/-- Every page-table entry is one pass of the walk's loop over its outcome. -/
theorem exec_entry {i : Instr} (h : i.format = .pageTableEntry) (s : State) :
    exec i s = .next (s.runEntry (fun p => entryOutcome s.cfg s.walk p i)) := by
  cases i <;> first | rfl | exact absurd h (by simp [Instr.format])

/-- What a command's effect can be: nothing, a removal of cached STEs of the executing Domain, or an invalidation of
windows of its controllers. -/
theorem commandEffect_cases (i : Instr) :
    (commandEffect i = fun t : State => t) ∨ (∃ p, commandEffect i = fun t : State => t.eraseStes t.cur p)
      ∨ ∃ a, commandEffect i = fun t : State => t.invalidateDomain t.cur a := by
  cases i <;> first
    | exact .inl rfl
    | exact .inr (.inl ⟨_, rfl⟩)
    | exact .inr (.inr ⟨_, rfl⟩)

/-- `AdvanceConsumerIndex` on the Domain: nothing on an empty queue (R168). -/
theorem State.advanceConsumer_eq (s : State) (d : SecurityState) :
    s.advanceConsumer d =
      s.setDom d (if (s.dom d).cmdqEmpty s.cfg then s.dom d else (s.dom d).advanceRd s.cfg) := by
  unfold State.advanceConsumer
  split <;> simp

/-- Everything one pass of the drain over a command can do (R252, R253). -/
theorem State.runCommand_cases (s : State) (tag : Option SecurityState) (effect : State → State) :
    (secCompatible s.cfg s.cur tag = true ∧ s.runCommand tag effect = (effect s).advanceConsumer s.cur)
    ∨ (secCompatible s.cfg s.cur tag = false ∧ s.runCommand tag effect = s.commandFailed s.cur .illegal) := by
  unfold State.runCommand
  cases h : secCompatible s.cfg s.cur tag <;> simp

/-! ### Walks -/

/-- Everything one entry can do to a walk (R211): fail it for its parameters, end it, or take it a level down. -/
theorem State.runEntry_cases (s : State) (o : Nat → EntryOutcome) :
    (s.walk.params = none ∧ s.runEntry o = s.finishWalk (.noWindow .translation))
    ∨ (∃ b p r, s.walk.params = some (b, p) ∧ o p = .done r ∧ s.runEntry o = s.finishWalk r)
    ∨ ∃ b p next, s.walk.params = some (b, p) ∧ o p = .descend next
        ∧ s.runEntry o = { s with walk := s.walk.descend next } := by
  unfold State.runEntry
  cases hp : s.walk.params with
  | none => exact .inl ⟨rfl, rfl⟩
  | some bp =>
    refine .inr ?_
    cases ho : o bp.2 with
    | done r => exact .inl ⟨bp.1, bp.2, r, rfl, ho, by simp [State.walkEntry, ho]⟩
    | descend next => exact .inr ⟨bp.1, bp.2, next, rfl, ho, by simp [State.walkEntry, ho]⟩

/-- Everything an entry's outcome can be: a Block or a page's window that covers the address, a fault, or, below the
last level, the next table (R219 to R227). -/
theorem entryOutcome_cases (cfg : Config) (w : Walk) (p : Nat) (i : Instr) :
    (∃ k, entryOutcome cfg w p i = .done (.noWindow k))
    ∨ (∃ oa perms n, (n = p ∨ n = vaShift cfg p w.level)
        ∧ entryOutcome cfg w p i = .done (.window (alignedWindow w.req.va oa n perms)))
    ∨ ∃ b, w.level < cfg.maxLevel ∧ entryOutcome cfg w p i = .descend b := by
  have inv : ∃ k, invalidOutcome = .done (.noWindow k) := ⟨_, rfl⟩
  cases i <;> try exact .inl inv
  case pteBlock ap pxn uxn oa attrs =>
    simp only [entryOutcome, blockOutcome]
    split
    · exact .inl ⟨_, rfl⟩
    · split
      · exact .inl ⟨_, rfl⟩
      · exact .inr (.inl ⟨_, _, _, .inr rfl, rfl⟩)
  case pteTable ap pxn uxn oa attrs hier =>
    simp only [entryOutcome, tableOutcome]
    split
    · exact .inl ⟨_, rfl⟩
    · split
      · exact .inr (.inr ⟨_, ‹_›, rfl⟩)
      · exact .inr (.inl ⟨_, _, _, .inl rfl, rfl⟩)

/-! ### The end of an access -/

/-- Everything the software controller can do with the translation's answer (R325). -/
theorem State.softwareFinish_cases (s : State) (r : Request) (w : Option Window) :
    (w = none ∧ s.softwareFinish r w = s.respond .deny)
    ∨ (∃ v, w = some v ∧ v.perms.has r.kind = true
        ∧ s.softwareFinish r w = (s.modifyCtl r.sid (Controller.addWindow v)).respond (.allow (v.apply r.va)))
    ∨ ∃ v, w = some v ∧ v.perms.has r.kind = false
        ∧ s.softwareFinish r w = ((s.permissionFault r).modifyCtl r.sid (Controller.addWindow v)).respond .deny := by
  cases w with
  | none => exact .inl ⟨rfl, rfl⟩
  | some v =>
    refine .inr ?_
    cases h : v.perms.has r.kind with
    | true => exact .inl ⟨v, rfl, h, by simp [State.softwareFinish, State.judge, h]⟩
    | false =>
      refine .inr ⟨v, rfl, h, ?_⟩
      simp only [State.softwareFinish, State.judge, h, Bool.false_eq_true, if_false, State.permissionFault]
      rw [State.signalEvent_modifyCtl]
      rfl

/-- What the hardware-assisted controller can do with the translation's answer (R332, R333): the abort, or the window
installed, the event and the flag of a violation, and a retry. -/
theorem State.hardwareFinish_cases (s : State) (r : Request) (w : Option Window) :
    (w = none ∧ s.hardwareFinish r w = s.respond .externalAbort)
    ∨ ∃ v, w = some v ∧ s.hardwareFinish r w =
        ((if v.perms.has r.kind then s else s.permissionFault r).modifyCtl r.sid (fun c =>
          if v.perms.has r.kind = false ∨ s.cfg.skipSetOn = .everySuccessfulWalk
          then Controller.setSkipped true (Controller.addWindow v c) else Controller.addWindow v c)).respond .retry := by
  cases w with
  | none => exact .inl ⟨rfl, rfl⟩
  | some v =>
    refine .inr ⟨v, rfl, ?_⟩
    have twice : ∀ (t : State) (sid : StreamId) (f g : Controller → Controller),
        (t.modifyCtl sid f).modifyCtl sid g = t.modifyCtl sid (fun c => g (f c)) := by
      intro t sid f g
      simp only [State.modifyCtl, Assoc.modify, List.map_map]
      congr 2
      funext e
      by_cases h : e.1 = sid.toNat <;> simp [h]
    have hp : ∀ f, (s.modifyCtl r.sid f).permissionFault r = (s.permissionFault r).modifyCtl r.sid f := by
      intro f
      exact State.signalEvent_modifyCtl ..
    unfold State.hardwareFinish
    by_cases h : v.perms.has r.kind = true <;> by_cases hs : s.cfg.skipSetOn = .everySuccessfulWalk <;>
      simp [h, hs, hp, twice]

end Sys2Proof.Machine
end

