-- ==== Sys2Proof/Laws/PerInstr.lean ====
section
/-! SUPPORT. What holds of every instruction as syntax, one lemma per constructor: the length of its encoding, and the
discriminant at its lowest bits (30_encoding.md R114, R115, R140, R147). -/

namespace Sys2Proof.Laws

/-- An encoding has the length of its format (R147). -/
def EncodedLength.Statement (i : Instr) : Prop := (encode i).length = i.format.size

/-- The kind bits of a page-table entry (R140). -/
def entryKind : Instr → BitVec 2
  | .pteBlock .. => 0b01#2
  | .pteTable .. => 0b11#2
  | .pteInvalid00 => 0b00#2
  | .pteInvalid10 => 0b10#2
  | .cmdPrefetchConfig .. | .cmdPrefetchAddr .. | .cmdCfgiSte .. | .cmdCfgiSteRange .. | .cmdTlbiNhAll ..
  | .cmdTlbiNhAsid .. | .cmdTlbiNhVa .. | .cmdTlbiNhVaa .. | .cmdTlbiEl3All .. | .cmdTlbiEl3Va .. | .cmdTlbiEl2All ..
  | .cmdTlbiEl2Asid .. | .cmdTlbiEl2Va .. | .cmdTlbiEl2Vaa .. | .cmdTlbiS12Vmall .. | .cmdTlbiS2Ipa ..
  | .cmdTlbiNsnhAll .. | .cmdSync .. => 0b00#2

/-- An encoded command has its opcode in bits 7:0 (R114, R115); an encoded entry has its kind in bits 1:0 (R140). -/
def EncodedDiscriminant.Statement (i : Instr) : Prop :=
  match i.format with
  | .command => CmdField.opcode.get (commandBits i) = i.opcode
  | .pageTableEntry => PteField.kind.get (pteBits i) = entryKind i

/-! ### Encoded lengths -/

theorem length_encode (i : Instr) : EncodedLength.Statement i := by
  unfold EncodedLength.Statement encode
  split <;> rename_i h <;> rw [h] <;> exact length_bytesOf _ _

/-! ### Discriminants -/

/-- No field of a command but the opcode reaches bits 7:0. -/
theorem opcode_fields (i : Instr) : CmdField.opcode.get (commandBits.fields i) = 0#8 := by
  cases i <;>
    simp (disch := decide) [commandBits.fields, commandBits.tlbi, commandBits.tlbiVa, Field.get_put_disjoint,
      Field.get_putFlag_disjoint]

theorem opcode_commandBits (i : Instr) : CmdField.opcode.get (commandBits i) = i.opcode := by
  unfold commandBits
  rw [Field.get_or, Field.get_put_same _ _ (by decide), opcode_fields]
  simp

/-- No attribute of a valid entry reaches bits 1:0. -/
theorem kind_leaf (ap : BitVec 2) (pxn uxn : Bool) (oa : BitVec 36) (attrs : PteAttrs) :
    PteField.kind.get (pteBits.leaf ap pxn uxn oa attrs) = 0#2 := by
  simp (disch := decide) [pteBits.leaf, Field.get_put_disjoint, Field.get_putFlag_disjoint]

/-! ### The families -/

theorem EncodedLength.cmdPrefetchConfig (ssec ssv : Bool) (substreamId : BitVec 20) (streamId : StreamId) :
    EncodedLength.Statement (.cmdPrefetchConfig ssec ssv substreamId streamId) := length_encode _
theorem EncodedDiscriminant.cmdPrefetchConfig (ssec ssv : Bool) (substreamId : BitVec 20) (streamId : StreamId) :
    EncodedDiscriminant.Statement (.cmdPrefetchConfig ssec ssv substreamId streamId) := opcode_commandBits _

theorem EncodedLength.cmdPrefetchAddr (ssec ssv : Bool) (substreamId : BitVec 20) (streamId : StreamId)
    (size stride : BitVec 5) (address : BitVec 52) :
    EncodedLength.Statement (.cmdPrefetchAddr ssec ssv substreamId streamId size stride address) := length_encode _
theorem EncodedDiscriminant.cmdPrefetchAddr (ssec ssv : Bool) (substreamId : BitVec 20) (streamId : StreamId)
    (size stride : BitVec 5) (address : BitVec 52) :
    EncodedDiscriminant.Statement (.cmdPrefetchAddr ssec ssv substreamId streamId size stride address) :=
      opcode_commandBits _

theorem EncodedLength.cmdCfgiSte (ssec : Bool) (streamId : StreamId) (leaf : Bool) :
    EncodedLength.Statement (.cmdCfgiSte ssec streamId leaf) := length_encode _
theorem EncodedDiscriminant.cmdCfgiSte (ssec : Bool) (streamId : StreamId) (leaf : Bool) :
    EncodedDiscriminant.Statement (.cmdCfgiSte ssec streamId leaf) := opcode_commandBits _

theorem EncodedLength.cmdCfgiSteRange (ssec : Bool) (streamId : StreamId) (range : BitVec 5) :
    EncodedLength.Statement (.cmdCfgiSteRange ssec streamId range) := length_encode _
theorem EncodedDiscriminant.cmdCfgiSteRange (ssec : Bool) (streamId : StreamId) (range : BitVec 5) :
    EncodedDiscriminant.Statement (.cmdCfgiSteRange ssec streamId range) := opcode_commandBits _

theorem EncodedLength.cmdTlbiNhAll (vmid asid : BitVec 16) : EncodedLength.Statement (.cmdTlbiNhAll vmid asid) :=
  length_encode _
theorem EncodedDiscriminant.cmdTlbiNhAll (vmid asid : BitVec 16) :
    EncodedDiscriminant.Statement (.cmdTlbiNhAll vmid asid) := opcode_commandBits _

theorem EncodedLength.cmdTlbiNhAsid (vmid asid : BitVec 16) : EncodedLength.Statement (.cmdTlbiNhAsid vmid asid) :=
  length_encode _
theorem EncodedDiscriminant.cmdTlbiNhAsid (vmid asid : BitVec 16) :
    EncodedDiscriminant.Statement (.cmdTlbiNhAsid vmid asid) := opcode_commandBits _

theorem EncodedLength.cmdTlbiNhVa (vmid asid : BitVec 16) (leaf : Bool) (address : BitVec 52) :
    EncodedLength.Statement (.cmdTlbiNhVa vmid asid leaf address) := length_encode _
theorem EncodedDiscriminant.cmdTlbiNhVa (vmid asid : BitVec 16) (leaf : Bool) (address : BitVec 52) :
    EncodedDiscriminant.Statement (.cmdTlbiNhVa vmid asid leaf address) := opcode_commandBits _

theorem EncodedLength.cmdTlbiNhVaa (vmid asid : BitVec 16) (leaf : Bool) (address : BitVec 52) :
    EncodedLength.Statement (.cmdTlbiNhVaa vmid asid leaf address) := length_encode _
theorem EncodedDiscriminant.cmdTlbiNhVaa (vmid asid : BitVec 16) (leaf : Bool) (address : BitVec 52) :
    EncodedDiscriminant.Statement (.cmdTlbiNhVaa vmid asid leaf address) := opcode_commandBits _

theorem EncodedLength.cmdTlbiEl3All (vmid asid : BitVec 16) : EncodedLength.Statement (.cmdTlbiEl3All vmid asid) :=
  length_encode _
theorem EncodedDiscriminant.cmdTlbiEl3All (vmid asid : BitVec 16) :
    EncodedDiscriminant.Statement (.cmdTlbiEl3All vmid asid) := opcode_commandBits _

theorem EncodedLength.cmdTlbiEl3Va (vmid asid : BitVec 16) (leaf : Bool) (address : BitVec 52) :
    EncodedLength.Statement (.cmdTlbiEl3Va vmid asid leaf address) := length_encode _
theorem EncodedDiscriminant.cmdTlbiEl3Va (vmid asid : BitVec 16) (leaf : Bool) (address : BitVec 52) :
    EncodedDiscriminant.Statement (.cmdTlbiEl3Va vmid asid leaf address) := opcode_commandBits _

theorem EncodedLength.cmdTlbiEl2All (vmid asid : BitVec 16) : EncodedLength.Statement (.cmdTlbiEl2All vmid asid) :=
  length_encode _
theorem EncodedDiscriminant.cmdTlbiEl2All (vmid asid : BitVec 16) :
    EncodedDiscriminant.Statement (.cmdTlbiEl2All vmid asid) := opcode_commandBits _

theorem EncodedLength.cmdTlbiEl2Asid (vmid asid : BitVec 16) : EncodedLength.Statement (.cmdTlbiEl2Asid vmid asid) :=
  length_encode _
theorem EncodedDiscriminant.cmdTlbiEl2Asid (vmid asid : BitVec 16) :
    EncodedDiscriminant.Statement (.cmdTlbiEl2Asid vmid asid) := opcode_commandBits _

theorem EncodedLength.cmdTlbiEl2Va (vmid asid : BitVec 16) (leaf : Bool) (address : BitVec 52) :
    EncodedLength.Statement (.cmdTlbiEl2Va vmid asid leaf address) := length_encode _
theorem EncodedDiscriminant.cmdTlbiEl2Va (vmid asid : BitVec 16) (leaf : Bool) (address : BitVec 52) :
    EncodedDiscriminant.Statement (.cmdTlbiEl2Va vmid asid leaf address) := opcode_commandBits _

theorem EncodedLength.cmdTlbiEl2Vaa (vmid asid : BitVec 16) (leaf : Bool) (address : BitVec 52) :
    EncodedLength.Statement (.cmdTlbiEl2Vaa vmid asid leaf address) := length_encode _
theorem EncodedDiscriminant.cmdTlbiEl2Vaa (vmid asid : BitVec 16) (leaf : Bool) (address : BitVec 52) :
    EncodedDiscriminant.Statement (.cmdTlbiEl2Vaa vmid asid leaf address) := opcode_commandBits _

theorem EncodedLength.cmdTlbiS12Vmall (vmid asid : BitVec 16) :
    EncodedLength.Statement (.cmdTlbiS12Vmall vmid asid) := length_encode _
theorem EncodedDiscriminant.cmdTlbiS12Vmall (vmid asid : BitVec 16) :
    EncodedDiscriminant.Statement (.cmdTlbiS12Vmall vmid asid) := opcode_commandBits _

theorem EncodedLength.cmdTlbiS2Ipa (vmid asid : BitVec 16) (leaf : Bool) (address : BitVec 52) :
    EncodedLength.Statement (.cmdTlbiS2Ipa vmid asid leaf address) := length_encode _
theorem EncodedDiscriminant.cmdTlbiS2Ipa (vmid asid : BitVec 16) (leaf : Bool) (address : BitVec 52) :
    EncodedDiscriminant.Statement (.cmdTlbiS2Ipa vmid asid leaf address) := opcode_commandBits _

theorem EncodedLength.cmdTlbiNsnhAll (vmid asid : BitVec 16) : EncodedLength.Statement (.cmdTlbiNsnhAll vmid asid) :=
  length_encode _
theorem EncodedDiscriminant.cmdTlbiNsnhAll (vmid asid : BitVec 16) :
    EncodedDiscriminant.Statement (.cmdTlbiNsnhAll vmid asid) := opcode_commandBits _

theorem EncodedLength.cmdSync (cs : BitVec 2) (msiData : BitVec 32) (msiAddress : BitVec 50) :
    EncodedLength.Statement (.cmdSync cs msiData msiAddress) := length_encode _
theorem EncodedDiscriminant.cmdSync (cs : BitVec 2) (msiData : BitVec 32) (msiAddress : BitVec 50) :
    EncodedDiscriminant.Statement (.cmdSync cs msiData msiAddress) := opcode_commandBits _

theorem EncodedLength.pteBlock (ap : BitVec 2) (pxn uxn : Bool) (outputAddress : BitVec 36) (attrs : PteAttrs) :
    EncodedLength.Statement (.pteBlock ap pxn uxn outputAddress attrs) := length_encode _
theorem EncodedDiscriminant.pteBlock (ap : BitVec 2) (pxn uxn : Bool) (outputAddress : BitVec 36) (attrs : PteAttrs) :
    EncodedDiscriminant.Statement (.pteBlock ap pxn uxn outputAddress attrs) := by
  simp (disch := decide) [EncodedDiscriminant.Statement, Instr.format, entryKind, pteBits, Field.get_put_same,
    kind_leaf]

theorem EncodedLength.pteTable (ap : BitVec 2) (pxn uxn : Bool) (outputAddress : BitVec 36) (attrs : PteAttrs)
    (hier : PteHier) :
    EncodedLength.Statement (.pteTable ap pxn uxn outputAddress attrs hier) := length_encode _
theorem EncodedDiscriminant.pteTable (ap : BitVec 2) (pxn uxn : Bool) (outputAddress : BitVec 36)
    (attrs : PteAttrs) (hier : PteHier) :
    EncodedDiscriminant.Statement (.pteTable ap pxn uxn outputAddress attrs hier) := by
  simp (disch := decide) [EncodedDiscriminant.Statement, Instr.format, entryKind, pteBits, Field.get_put_same,
    kind_leaf,
    Field.get_put_disjoint, Field.get_putFlag_disjoint]

theorem EncodedLength.pteInvalid00 : EncodedLength.Statement .pteInvalid00 := length_encode _
theorem EncodedDiscriminant.pteInvalid00 : EncodedDiscriminant.Statement .pteInvalid00 :=
  show PteField.kind.get (pteBits .pteInvalid00) = 0b00#2 by decide

theorem EncodedLength.pteInvalid10 : EncodedLength.Statement .pteInvalid10 := length_encode _
theorem EncodedDiscriminant.pteInvalid10 : EncodedDiscriminant.Statement .pteInvalid10 :=
  show PteField.kind.get (pteBits .pteInvalid10) = 0b10#2 by decide

end Sys2Proof.Laws
end

