-- ==== Sys2Proof/Laws/Step.lean ====
section
/-! SUPPORT. What a step can do, said once: every step is made of the changes listed in `Keeps`, so that a property kept
by each of them is kept by every step. -/

namespace Sys2Proof.Machine

/-! ### The windows of a walk -/

/-- The granules of R215. -/
theorem granuleShift_mem {upper : Bool} {cd : Cd} {p : Nat} (h : granuleShift upper cd = some p) :
    p = 12 ∨ p = 14 ∨ p = 16 := by
  unfold granuleShift tg0Shift tg1Shift at h
  revert h
  split <;> (repeat' split) <;> simp_all

theorem Walk.params_granule {w : Walk} {base : Addr} {p : Nat} (h : w.params = some (base, p)) :
    p = 12 ∨ p = 14 ∨ p = 16 := by
  unfold Walk.params at h
  simp only at h
  split at h
  · cases h
  · split at h
    · cases h
    · rename_i hg
      cases h
      exact granuleShift_mem hg

theorem vaShift_lt {cfg : Config} (hc : cfg.maxLevel ≤ 3) {p : Nat} (hp : p = 12 ∨ p = 14 ∨ p = 16) (level : Nat) :
    vaShift cfg p level < 64 := by
  unfold vaShift
  have : (p - 3) * (cfg.maxLevel - level) ≤ (p - 3) * 3 := Nat.mul_le_mul_left _ (by omega)
  omega

theorem alignDown_toNat (a : Addr) (k : Nat) : (alignDown a k).toNat = a.toNat / 2 ^ k * 2 ^ k := by
  have h1 : a.toNat / 2 ^ k * 2 ^ k ≤ a.toNat := Nat.div_mul_le_self _ _
  have h2 := a.isLt
  simp only [alignDown, BitVec.toNat_shiftLeft, BitVec.toNat_ushiftRight, Nat.shiftRight_eq_div_pow, Nat.shiftLeft_eq]
  exact Nat.mod_eq_of_lt (by omega)

/-- An aligned window is well-formed and covers its address (R60, R221, R224). -/
theorem alignedWindow_wf (va oa : Addr) (k : Nat) (hk : k < 64) (perms : Perms) :
    (alignedWindow va oa k perms).wf = true ∧ (alignedWindow va oa k perms).covers va = true := by
  have hd := alignDown_toNat va k
  have h1 : va.toNat / 2 ^ k * 2 ^ k ≤ va.toNat := Nat.div_mul_le_self _ _
  have h2 : va.toNat < va.toNat / 2 ^ k * 2 ^ k + 2 ^ k := Nat.lt_div_mul_add (Nat.two_pow_pos k)
  have h3 : va.toNat / 2 ^ k * 2 ^ k + 2 ^ k ≤ 2 ^ 64 := by
    have e : (2 : Nat) ^ 64 = 2 ^ (64 - k) * 2 ^ k := by rw [← Nat.pow_add]; congr 1; omega
    have : va.toNat / 2 ^ k < 2 ^ (64 - k) := by
      rw [Nat.div_lt_iff_lt_mul (Nat.two_pow_pos k), ← e]
      exact va.isLt
    calc va.toNat / 2 ^ k * 2 ^ k + 2 ^ k = (va.toNat / 2 ^ k + 1) * 2 ^ k := by ring
      _ ≤ 2 ^ (64 - k) * 2 ^ k := Nat.mul_le_mul_right _ this
      _ = 2 ^ 64 := e.symm
  have hp := Nat.two_pow_pos k
  constructor
  · simp only [Window.wf, alignedWindow, Bool.and_eq_true, decide_eq_true_eq, hd]
    omega
  · simp only [Window.covers, alignedWindow, Bool.and_eq_true, decide_eq_true_eq, hd]
    omega

/-- The window that an entry gives a walk is well-formed and covers the walk's address. -/
theorem entryOutcome_window {cfg : Config} (hc : cfg.maxLevel ≤ 3) {w : Walk} {base : Addr} {p : Nat}
    (hp : w.params = some (base, p)) {i : Instr} {win : Window}
    (h : entryOutcome cfg w p i = .done (.window win)) : win.wf = true ∧ win.covers w.req.va = true := by
  have hg := Walk.params_granule hp
  rcases entryOutcome_cases cfg w p i with ⟨k, h'⟩ | ⟨oa, perms, n, hn, h'⟩ | ⟨b, _, h'⟩
  · rw [h'] at h; cases h
  · rw [h'] at h
    cases h
    have : n < 64 := by
      rcases hn with rfl | rfl
      · omega
      · exact vaShift_lt hc hg _
    exact alignedWindow_wf _ _ _ this _
  · rw [h'] at h; cases h

/-! ### What a step is made of -/

/-- `P` is kept by every change that a step is made of. -/
structure Keeps (P : State → Prop) : Prop where
  respond : ∀ s r, P s → P (s.respond r)
  signalEvent : ∀ s d e b, P s → P (s.signalEvent d e b)
  addWindow : ∀ s sid w, (s.cfg.maxLevel ≤ 3 → w.wf = true) → P s → P (s.modifyCtl sid (Controller.addWindow w))
  setSkipped : ∀ s sid b, P s → P (s.modifyCtl sid (Controller.setSkipped b))
  cacheSte : ∀ s d sid ste, P s →
    P (s.setDom d { s.dom d with steCache := Assoc.set (s.dom d).steCache (BitVec.toNat (w := 32) sid) ste })
  beginWalk : ∀ s r cd priv, P s → P (s.beginWalk r cd priv)
  descend : ∀ s base, s.walk.level < s.cfg.maxLevel → P s → P { s with walk := s.walk.descend base }
  eraseStes : ∀ s d p, P s → P (s.eraseStes d p)
  invalidateDomain : ∀ s d a, P s → P (s.invalidateDomain d a)
  advance : ∀ s d, P s → P (s.setDom d ((s.dom d).advanceRd s.cfg))
  fail : ∀ s d r, P s → P (s.setDom d ((s.dom d).takeCommandError s.cfg r))
  inputs : ∀ s l, P s → P { s with inputs := l }
  response : ∀ s r, P s → P { s with response := r }
  freeCount : ∀ s n, P s → P { s with freeCount := n }
  store : ∀ s a bs, P s → P { s with mem := Memory.writeBytes s.mem a bs }
  failing : ∀ s l, P s → P { s with failing := l }
  register : ∀ s sid, s.ctl? sid = none → P s → P (s.register sid)
  unregister : ∀ s sid, P s → P (s.unregister sid)
  regWrite : ∀ s d r v, P s → P (s.regWrite d r v)
  systemReset : ∀ s, P s → P s.systemReset

variable {P : State → Prop}

theorem Keeps.softwareFinish (k : Keeps P) {s : State} (r : Request) (w : Option Window)
    (hw : ∀ v, w = some v → s.cfg.maxLevel ≤ 3 → v.wf = true) (h : P s) : P (s.softwareFinish r w) := by
  rcases s.softwareFinish_cases r w with ⟨rfl, e⟩ | ⟨v, rfl, -, e⟩ | ⟨v, rfl, -, e⟩ <;> rw [e]
  · exact k.respond _ _ h
  · exact k.respond _ _ (k.addWindow _ _ _ (hw v rfl) h)
  · refine k.respond _ _ (k.addWindow _ _ _ ?_ (k.signalEvent _ _ _ _ h))
    simpa [State.permissionFault] using hw v rfl

theorem Keeps.hardwareFinish (k : Keeps P) {s : State} (r : Request) (w : Option Window)
    (hw : ∀ v, w = some v → s.cfg.maxLevel ≤ 3 → v.wf = true) (h : P s) : P (s.hardwareFinish r w) := by
  unfold State.hardwareFinish
  cases w with
  | none => exact k.respond _ _ h
  | some v =>
    have h1 := k.addWindow s r.sid v (hw v rfl) h
    simp only
    refine k.respond _ _ ?_
    have h2 : P (if (!v.perms.has r.kind) = true then
        (s.modifyCtl r.sid (Controller.addWindow v)).permissionFault r
        else s.modifyCtl r.sid (Controller.addWindow v)) := by
      split
      · exact k.signalEvent _ _ _ _ h1
      · exact h1
    split
    · exact k.setSkipped _ _ _ h2
    · exact h2

theorem Keeps.finishAccess (k : Keeps P) {s : State} (r : Request) (w : Option Window)
    (hw : ∀ v, w = some v → s.cfg.maxLevel ≤ 3 → v.wf = true) (h : P s) : P (s.finishAccess r w) := by
  unfold State.finishAccess
  split
  · exact k.softwareFinish r w hw h
  · exact k.hardwareFinish r w hw h

theorem Keeps.translateFault (k : Keeps P) {s : State} (r : Request) (f : FaultKind) (priv record : Bool) (h : P s) :
    P (s.translateFault r f priv record) :=
  k.finishAccess _ _ (fun _ hv => by cases hv) (k.signalEvent _ _ _ _ h)

theorem Keeps.finishWalk (k : Keeps P) {s : State} (res : WalkResult)
    (hw : ∀ v, res = .window v → s.cfg.maxLevel ≤ 3 → v.wf = true) (h : P s) : P (s.finishWalk res) := by
  cases res with
  | window w => exact k.finishAccess _ _ (fun v hv => hw v (by cases hv; rfl)) h
  | noWindow f => exact k.translateFault _ _ _ _ h

/-- A page-table entry keeps what the changes keep. -/
theorem Keeps.exec_entry (k : Keeps P) {s t : State} {i : Instr} (hf : i.format = .pageTableEntry) (h : P s)
    (ht : exec i s = .next t) : P t := by
  rw [Machine.exec_entry hf] at ht
  cases ht
  rcases s.runEntry_cases (fun p => entryOutcome s.cfg s.walk p i) with
    ⟨-, e⟩ | ⟨b, p, r, hp, ho, e⟩ | ⟨b, p, next, hp, ho, e⟩ <;> rw [e]
  · exact k.finishWalk _ (fun _ hv => by cases hv) h
  · refine k.finishWalk _ (fun v hv hc => ?_) h
    subst hv
    exact (entryOutcome_window hc hp ho).1
  · refine k.descend _ _ ?_ h
    rcases entryOutcome_cases s.cfg s.walk p i with ⟨_, h'⟩ | ⟨_, _, _, _, h'⟩ | ⟨_, hl, h'⟩
    · rw [h'] at ho; cases ho
    · rw [h'] at ho; cases ho
    · exact hl

theorem Keeps.commandFailed (k : Keeps P) {s : State} (d : SecurityState) (r : CmdError) (h : P s) :
    P (s.commandFailed d r) := k.respond _ _ (k.fail _ _ _ h)

theorem Keeps.advanceConsumer (k : Keeps P) {s : State} (d : SecurityState) (h : P s) : P (s.advanceConsumer d) := by
  unfold State.advanceConsumer
  split
  · exact h
  · exact k.advance _ _ h

theorem Keeps.runCommand (k : Keeps P) {s : State} (tag : Option SecurityState) {effect : State → State}
    (he : ∀ s, P s → P (effect s)) (h : P s) : P (s.runCommand tag effect) := by
  rcases s.runCommand_cases tag effect with ⟨-, e⟩ | ⟨-, e⟩ <;> rw [e]
  · exact k.advanceConsumer _ (he _ h)
  · exact k.commandFailed _ _ h

/-- A command keeps what the changes keep. -/
theorem Keeps.exec_command (k : Keeps P) {s t : State} {i : Instr} (hf : i.format = .command) (h : P s)
    (ht : exec i s = .next t) : P t := by
  rw [Machine.exec_command hf] at ht
  cases ht
  refine k.runCommand _ (fun u hu => ?_) h
  rcases commandEffect_cases i with e | ⟨p, e⟩ | ⟨a, e⟩ <;> rw [e]
  · exact hu
  · exact k.eraseStes _ _ _ hu
  · exact k.invalidateDomain _ _ _ hu

theorem Keeps.exec (k : Keeps P) {s t : State} {i : Instr} (h : P s) (ht : exec i s = .next t) : P t := by
  cases hf : i.format with
  | command => exact k.exec_command hf h ht
  | pageTableEntry => exact k.exec_entry hf h ht

theorem Keeps.translateSte (k : Keeps P) {s : State} (r : Request) (ste : Ste) (h : P s) :
    P (s.translateSte r ste) := by
  unfold State.translateSte
  split
  · split
    · exact k.finishAccess _ _ (fun _ hv => by cases hv) h
    · exact k.finishAccess _ _ (fun v hv _ => by cases hv; decide) h
    · exact k.translateFault _ _ _ _ h
    · exact k.translateFault _ _ _ _ h
    · unfold State.translateStage1
      simp only
      split
      · exact k.translateFault _ _ _ _ h
      · split
        · exact k.beginWalk _ _ _ _ h
        · exact k.translateFault _ _ _ _ h
  · exact k.translateFault _ _ _ _ h

/-- Everything `LookupSte` can do (R191): a cached entry, a failure, or a fetched entry, now cached. -/
theorem State.lookupSte_cases (s : State) (d : SecurityState) (sid : StreamId) :
    (∃ ste, Assoc.get? (s.dom d).steCache sid.toNat = some ste ∧ s.lookupSte d sid = .found ste s)
    ∨ (Assoc.get? (s.dom d).steCache sid.toNat = none ∧ ∃ f, s.lookupSte d sid = .failed f)
    ∨ (Assoc.get? (s.dom d).steCache sid.toNat = none ∧ ∃ ste, s.lookupSte d sid = .found ste
        (s.setDom d { s.dom d with steCache := Assoc.set (s.dom d).steCache sid.toNat ste })) := by
  unfold State.lookupSte
  simp only
  cases h : Assoc.get? (s.dom d).steCache sid.toNat with
  | some ste => exact .inl ⟨_, rfl, rfl⟩
  | none =>
    refine .inr ?_
    simp only
    split
    · exact .inl ⟨trivial, _, rfl⟩
    · split
      · exact .inl ⟨trivial, _, rfl⟩
      · split
        · exact .inl ⟨trivial, _, rfl⟩
        · exact .inr ⟨trivial, _, rfl⟩

theorem Keeps.beginTranslate (k : Keeps P) {s : State} (r : Request) (h : P s) : P (s.beginTranslate r) := by
  unfold State.beginTranslate
  rcases s.lookupSte_cases r.sec r.sid with ⟨ste, -, e⟩ | ⟨-, f, e⟩ | ⟨-, ste, e⟩ <;> rw [e] <;> simp only
  · exact k.translateSte _ _ h
  · exact k.translateFault _ _ _ _ h
  · exact k.translateSte _ _ (k.cacheSte _ _ _ _ h)

theorem Keeps.judge (k : Keeps P) {s : State} (r : Request) (w : Window) (h : P s) : P (s.judge r w) := by
  unfold State.judge
  split
  · exact k.respond _ _ h
  · exact k.respond _ _ (k.signalEvent _ _ _ _ h)

/-- An access keeps what the changes keep. -/
theorem Keeps.access (k : Keeps P) {s : State} (c : Controller) (va : Addr) (kind : AccessKind) (h : P s) :
    P (s.access c va kind) := by
  unfold State.access State.softwareAccess State.hardwareAccess State.faultHook
  simp only
  split
  · split
    · split
      · exact k.judge _ _ (k.freeCount _ _ h)
      · exact k.beginTranslate _ h
    · split
      · exact k.respond _ _ (k.freeCount _ _ h)
      · split
        · exact k.respond _ _ (k.setSkipped _ _ _ h)
        · exact k.beginTranslate _ h
  · exact k.respond _ _ h

/-- A top-level operation keeps what the changes keep. -/
theorem Keeps.perform (k : Keeps P) {s t : State} (i : Input) (h : P s) (ht : s.perform i = .next t) : P t := by
  cases i <;> simp only [State.perform] at ht
  case regRead => cases ht; exact k.respond _ _ h
  case regWrite => cases ht; exact k.regWrite _ _ _ _ h
  case busRead =>
    split at ht <;> cases ht
    · exact k.respond _ _ h
    · exact k.respond _ _ h
  case busWrite =>
    split at ht <;> cases ht
    · exact k.regWrite _ _ _ _ h
    · exact k.respond _ _ h
  case access =>
    split at ht <;> cases ht
    exact k.access _ _ _ (k.response _ _ h)
  case attach =>
    split at ht <;> cases ht
    exact k.respond _ _ (k.register _ _ ‹_› h)
  case detach =>
    split at ht <;> cases ht
    exact k.respond _ _ (k.unregister _ _ h)
  case reset => cases ht; exact k.respond _ _ (k.systemReset _ h)
  case store => cases ht; exact k.respond _ _ (k.store _ _ _ h)
  case memFaults => cases ht; exact k.respond _ _ (k.failing _ _ h)

/-- Every step keeps what the changes keep. -/
theorem Keeps.step (k : Keeps P) {s t : State} (h : P s) (ht : step s = .next t) : P t := by
  unfold Machine.step at ht
  split at ht
  · unfold stepDrain at ht
    split at ht
    · cases ht; exact k.respond _ _ h
    · cases ht; exact k.commandFailed _ _ h
    · split at ht
      · exact k.exec h ht
      · cases ht
        unfold State.runUnrecognised
        split
        · split
          · exact k.runCommand _ (fun _ hu => hu) h
          · exact k.commandFailed _ _ h
        · exact k.commandFailed _ _ h
  · unfold stepWalk at ht
    split at ht
    · cases ht; exact k.finishWalk _ (fun _ hv => by cases hv) h
    · split at ht
      · cases ht; exact k.finishWalk _ (fun _ hv => by cases hv) h
      · split at ht
        · exact k.exec h ht
        · cases ht; exact k.finishWalk _ (fun _ hv => by cases hv) h
  · split at ht
    · cases ht; exact h
    · exact k.perform _ (k.inputs _ _ h) ht

/-! ### Runs -/

/-- No steps. -/
theorem run_zero (s : State) : Host.Core.run Sys2Proof.core 0 s = .next s := rfl

/-- A run whose first step answers a state goes on from it. -/
theorem run_succ {n : Nat} {s t : State} (h : step s = .next t) :
    Host.Core.run Sys2Proof.core (n + 1) s = Host.Core.run Sys2Proof.core n t := by
  have e := Host.Core.run.eq_2 Sys2Proof.core s n
  have hs : Sys2Proof.core.step s = .next t := h
  rw [hs] at e
  exact e

end Sys2Proof.Machine
end

