-- ==== Sys2Proof/Laws/Queues.lean ====
section
/-! SUPPORT. What the operand forms say in numbers: the queues' geometry and the two queue conditions (R161 to R166), an
entry's output address and the address-size condition (R229), and what `SignalEvent` depends on. -/

namespace Sys2Proof.Machine

/-! ### Fields as numbers -/

theorem index_toNat (x : BitVec 32) : (RegField.index.get x).toNat = x.toNat % 2 ^ 20 := by
  simp [Field.get_toNat]

theorem queueLog2Size_toNat (x : BitVec 64) : (RegField.queueLog2Size.get x).toNat = x.toNat % 2 ^ 5 := by
  simp [Field.get_toNat]

theorem queueAddr_toNat (x : BitVec 64) : (RegField.queueAddr.get x).toNat = x.toNat / 2 ^ 5 % 2 ^ 47 :=
  Field.get_toNat _ _

/-! ### Geometry -/

/-- The naturally aligned base (R161). -/
theorem queueBase_eq (b : BitVec 64) (q e : Nat) :
    queueBase b q e = BitVec.ofNat 64 (b.toNat / 2 ^ 5 % 2 ^ 47 * 2 ^ 5 / 2 ^ (q + e) * 2 ^ (q + e)) := by
  apply BitVec.eq_of_toNat_eq
  unfold queueBase
  have h : ((RegField.queueAddr.get b).setWidth 64 <<< 5 : BitVec 64).toNat = b.toNat / 2 ^ 5 % 2 ^ 47 * 2 ^ 5 := by
    rw [BitVec.toNat_shiftLeft, BitVec.toNat_setWidth, queueAddr_toNat, Nat.shiftLeft_eq]
    omega
  have h2 := Nat.div_mul_le_self (b.toNat / 2 ^ 5 % 2 ^ 47 * 2 ^ 5) (2 ^ (q + e))
  have h3 : b.toNat / 2 ^ 5 % 2 ^ 47 < 2 ^ 47 := Nat.mod_lt _ (by decide)
  rw [alignDown_toNat, h, BitVec.toNat_ofNat]
  refine (Nat.mod_eq_of_lt (lt_of_le_of_lt h2 ?_)).symm
  omega

/-- The clamped shift of the command queue (R162). -/
theorem cmdqShift_eq (cfg : Config) (D : Domain) :
    D.cmdqShift cfg = min (D.cmdqBase.toNat % 2 ^ 5) cfg.maxCmdqShift := by
  rw [Domain.cmdqShift, queueShift, queueLog2Size_toNat]

/-- The clamped shift of the event queue (R162). -/
theorem evtqShift_eq (cfg : Config) (D : Domain) :
    D.evtqShift cfg = min (D.eventqBase.toNat % 2 ^ 5) cfg.maxEvtqShift := by
  rw [Domain.evtqShift, queueShift, queueLog2Size_toNat]

/-- The command at the consume index (R161 to R163, R167). -/
theorem cmdAddr_eq (cfg : Config) (D : Domain) :
    D.cmdAddr cfg = BitVec.ofNat 64 (D.cmdqBase.toNat / 2 ^ 5 % 2 ^ 47 * 2 ^ 5 / 2 ^ (D.cmdqShift cfg + 4)
      * 2 ^ (D.cmdqShift cfg + 4) + D.cmdqCons.toNat % 2 ^ 20 % 2 ^ D.cmdqShift cfg * 16) := by
  simp only [Domain.cmdAddr, queueBase_eq, ← BitVec.ofNat_add, queuePos, Domain.cmdqRd, index_toNat, cmdSizeLog2,
    cmdSize]

/-- The event slot at the produce index (R161 to R163, R169). -/
theorem evtAddr_eq (cfg : Config) (D : Domain) :
    D.evtAddr cfg = BitVec.ofNat 64 (D.eventqBase.toNat / 2 ^ 5 % 2 ^ 47 * 2 ^ 5 / 2 ^ (D.evtqShift cfg + 5)
      * 2 ^ (D.evtqShift cfg + 5) + D.eventqProd.toNat % 2 ^ 20 % 2 ^ D.evtqShift cfg * 32) := by
  simp only [Domain.evtAddr, queueBase_eq, ← BitVec.ofNat_add, queuePos, Domain.evtqWr, index_toNat, eventSizeLog2,
    eventSize]

/-- The bits of a structure of 64 bytes are those of its little-endian number. -/
theorem readBytes_toNat (m : Memory) (a : Addr) :
    (BitVec.ofNat 512 (leNat (Memory.readBytes m a 64))).toNat = leNat (Memory.readBytes m a 64) := by
  have h := leNat_lt (Memory.readBytes m a 64)
  rw [Memory.length_readBytes] at h
  rw [BitVec.toNat_ofNat]
  exact Nat.mod_eq_of_lt (by omega)

/-- An access fails only with `MEM_CAN_ABORT`, where one of its bytes lies in a failing range (R96). -/
theorem memAborts_iff (s : State) (a : Addr) (n : Nat) :
    s.memAborts a n = true ↔ s.cfg.memCanAbort = true ∧
      ∃ k < n, ∃ r ∈ s.failing, r.1 ≤ (a + BitVec.ofNat 64 k).toNat ∧ (a + BitVec.ofNat 64 k).toNat < r.2 := by
  simp [State.memAborts, failsAt]

/-! ### Packed indices -/

/-- The packed value of a position is the field's low `q + 1` bits (R163). -/
theorem pack_queuePos (q : Nat) (f : BitVec 20) : (queuePos q f).pack q = f.toNat % 2 ^ (q + 1) := by
  have h : f.toNat % 2 ^ (q + 1) = f.toNat % 2 ^ q + 2 ^ q * (f.toNat / 2 ^ q % 2) := by
    rw [Nat.pow_succ, Nat.mod_mul]
  rw [h]
  simp only [QueuePos.pack, queuePos, Nat.testBit_eq_decide_div_mod_eq]
  split
  · simp_all
  · have : f.toNat / 2 ^ q % 2 = 0 := by simp_all
    simp [this]

/-- A queue is empty when the packed indices agree (R164). -/
theorem queueEmpty_iff (q : Nat) (f g : BitVec 20) :
    queueEmpty (queuePos q f) (queuePos q g) = true ↔ f.toNat % 2 ^ (q + 1) = g.toNat % 2 ^ (q + 1) := by
  have h1 := Nat.mod_lt f.toNat (Nat.two_pow_pos q)
  have h2 := Nat.mod_lt g.toNat (Nat.two_pow_pos q)
  rw [← pack_queuePos, ← pack_queuePos]
  simp only [queueEmpty, QueuePos.pack, queuePos, Bool.and_eq_true, beq_iff_eq]
  rcases Bool.eq_false_or_eq_true (f.toNat.testBit q) with hf | hf <;>
    rcases Bool.eq_false_or_eq_true (g.toNat.testBit q) with hg | hg <;> simp [hf, hg] <;> omega

/-- A queue is full when the packed indices are one capacity apart (R165). -/
theorem queueFull_iff (q : Nat) (f g : BitVec 20) :
    queueFull (queuePos q f) (queuePos q g) = true ↔ f.toNat % 2 ^ (q + 1) = (g.toNat + 2 ^ q) % 2 ^ (q + 1) := by
  have h1 := Nat.mod_lt f.toNat (Nat.two_pow_pos q)
  have h3 := Nat.mod_lt g.toNat (Nat.two_pow_pos q)
  rw [← pack_queuePos, ← Nat.mod_add_mod, ← pack_queuePos, Nat.pow_succ']
  simp only [queueFull, QueuePos.pack, queuePos, Bool.and_eq_true, beq_iff_eq, bne_iff_ne]
  generalize 2 ^ q = m at *
  generalize f.toNat % m = a at *
  generalize g.toNat % m = b at *
  rcases Bool.eq_false_or_eq_true (f.toNat.testBit q) with hf | hf <;>
    rcases Bool.eq_false_or_eq_true (g.toNat.testBit q) with hg | hg <;> simp [hf, hg]
  · rw [show b + m + m = b + 2 * m by omega, Nat.add_mod_right, Nat.mod_eq_of_lt (by omega)]; omega
  · rw [Nat.mod_eq_of_lt (by omega)]; omega
  · rw [show b + m + m = b + 2 * m by omega, Nat.add_mod_right, Nat.mod_eq_of_lt (by omega)]
  · rw [Nat.mod_eq_of_lt (by omega)]; omega

/-! ### Entries -/

/-- An entry's output address (R141, R142). -/
theorem outputAddressOf_eq (oa : BitVec 36) : outputAddressOf oa = BitVec.ofNat 64 (oa.toNat * 4096) := by
  apply BitVec.eq_of_toNat_eq
  simp [outputAddressOf, Nat.shiftLeft_eq]

/-- The address-size condition (R229). -/
theorem addrSizeViolation_iff (cfg : Config) (cd : Cd) (oa : BitVec 36) :
    addrSizeViolation cfg cd oa = true ↔
      BitVec.ofNat 64 (oa.toNat * 4096) &&& (if cd.aa64 then cfg.oaReservedMask64 else cfg.oaReservedMask32) ≠ 0#64 := by
  rw [← outputAddressOf_eq]
  simp [addrSizeViolation]

/-- A window around an address is that window in numbers (R221, R224). -/
theorem alignedWindow_isAligned (va oa : Addr) (k : Nat) (perms : Perms) :
    (alignedWindow va oa k perms).start.toNat = va.toNat / 2 ^ k * 2 ^ k
      ∧ (alignedWindow va oa k perms).stop = va.toNat / 2 ^ k * 2 ^ k + 2 ^ k
      ∧ (alignedWindow va oa k perms).offset
        = BitVec.ofNat 64 (oa.toNat / 2 ^ k * 2 ^ k) - (alignedWindow va oa k perms).start := by
  refine ⟨alignDown_toNat _ _, by simp [alignedWindow, alignDown_toNat], ?_⟩
  rw [← alignDown_toNat, BitVec.ofNat_toNat]
  simp [alignedWindow]

/-! ### Events -/

/-- The privilege of a permission event (R326, R396). -/
theorem cachedPriv_eq (s : State) (d : SecurityState) (sid : StreamId) :
    s.cachedPriv d sid =
      (Assoc.get? (s.dom d).steCache sid.toNat).elim true (fun ste => decide (ste.privCfg ≠ .unprivileged)) := by
  unfold State.cachedPriv
  cases Assoc.get? (s.dom d).steCache sid.toNat <;> rfl


/-- What `SignalEvent` does to memory and the Domains depends on the configuration, the Domains, memory and the failing
ranges alone. -/
theorem State.signalEvent_congr {s u : State} (h1 : s.cfg = u.cfg) (h2 : s.secure = u.secure)
    (h3 : s.nonSecure = u.nonSecure) (h4 : s.mem = u.mem) (h5 : s.failing = u.failing) (d : SecurityState) (e : Event)
    (b : Bool) :
    (s.signalEvent d e b).mem = (u.signalEvent d e b).mem
      ∧ ∀ d', (s.signalEvent d e b).dom d' = (u.signalEvent d e b).dom d' := by
  have hd : ∀ d, s.dom d = u.dom d := by intro d; cases d <;> assumption
  have ha : ∀ a n, s.memAborts a n = u.memAborts a n := by intro a n; unfold State.memAborts; rw [h1, h5]
  have hs : ∀ D (v w : State), v.secure = w.secure → v.nonSecure = w.nonSecure →
      ∀ d', (v.setDom d D).dom d' = (w.setDom d D).dom d' := by
    intro D v w e1 e2 d'
    cases d <;> cases d' <;> first | rfl | exact e1 | exact e2
  rcases s.signalEvent_cases d e b with ⟨g1, h⟩ | ⟨g1, g2, h⟩ | ⟨g1, g2, g3, h⟩ | ⟨g1, g2, g3, h⟩ <;>
    rcases u.signalEvent_cases d e b with ⟨k1, h'⟩ | ⟨k1, k2, h'⟩ | ⟨k1, k2, k3, h'⟩ | ⟨k1, k2, k3, h'⟩ <;>
    rw [h, h'] <;> simp only [hd, h1, ha] at * <;> first | (exfalso; simp_all; done) | skip
  · exact ⟨h4, fun _ => trivial⟩
  · exact ⟨by simp [h4], hs _ _ _ h2 h3⟩
  · exact ⟨h4, fun _ => trivial⟩
  · exact ⟨by simp [h4], hs _ _ _ h2 h3⟩

end Sys2Proof.Machine
end

