-- ==== Sys2Proof/Laws/Safety.lean ====
section
/-! SUPPORT. The words of the statements are the model's accessors: flags as bits, queue conditions and walk parameters in
numbers, windows and streams spelled out. -/

namespace Sys2Proof.Machine

/-! ### Flags as bits -/

theorem Domain.smmuen_eq (D : Domain) : D.smmuen = D.cr0.getLsbD 0 := Field.flag_eq _ _
theorem Domain.eventqen_eq (D : Domain) : D.eventqen = D.cr0.getLsbD 2 := Field.flag_eq _ _
theorem Domain.cmdqen_eq (D : Domain) : D.cmdqen = D.cr0.getLsbD 3 := Field.flag_eq _ _
theorem Domain.gerrorIrqen_eq (D : Domain) : D.gerrorIrqen = D.irqCtrl.getLsbD 0 := Field.flag_eq _ _
theorem Domain.eventqIrqen_eq (D : Domain) : D.eventqIrqen = D.irqCtrl.getLsbD 2 := Field.flag_eq _ _
theorem Domain.cmdqErr_eq (D : Domain) : D.cmdqErr = D.gerror.getLsbD 0 := Field.flag_eq _ _
theorem Domain.cmdqErrAck_eq (D : Domain) : D.cmdqErrAck = D.gerrorn.getLsbD 0 := Field.flag_eq _ _
theorem Domain.ovflg_eq (D : Domain) : D.ovflg = D.eventqProd.getLsbD 31 := Field.flag_eq _ _
theorem Domain.ovackflg_eq (D : Domain) : D.ovackflg = D.eventqCons.getLsbD 31 := Field.flag_eq _ _

/-! ### Queue conditions in numbers (R161 to R165) -/

theorem Domain.cmdqEmpty_iff (cfg : Config) (D : Domain) : D.cmdqEmpty cfg = true ↔
    D.cmdqProd.toNat % 2 ^ 20 % 2 ^ (min (D.cmdqBase.toNat % 2 ^ 5) cfg.maxCmdqShift + 1)
      = D.cmdqCons.toNat % 2 ^ 20 % 2 ^ (min (D.cmdqBase.toNat % 2 ^ 5) cfg.maxCmdqShift + 1) := by
  simp only [Domain.cmdqEmpty, queueEmpty_iff, cmdqShift_eq, Domain.cmdqWr, Domain.cmdqRd, index_toNat]

theorem Domain.evtqEmpty_iff (cfg : Config) (D : Domain) : D.evtqEmpty cfg = true ↔
    D.eventqProd.toNat % 2 ^ 20 % 2 ^ (min (D.eventqBase.toNat % 2 ^ 5) cfg.maxEvtqShift + 1)
      = D.eventqCons.toNat % 2 ^ 20 % 2 ^ (min (D.eventqBase.toNat % 2 ^ 5) cfg.maxEvtqShift + 1) := by
  simp only [Domain.evtqEmpty, queueEmpty_iff, evtqShift_eq, Domain.evtqWr, Domain.evtqRd, index_toNat]

theorem Domain.evtqFull_iff (cfg : Config) (D : Domain) : D.evtqFull cfg = true ↔
    D.eventqProd.toNat % 2 ^ 20 % 2 ^ (min (D.eventqBase.toNat % 2 ^ 5) cfg.maxEvtqShift + 1)
      = (D.eventqCons.toNat % 2 ^ 20 + 2 ^ min (D.eventqBase.toNat % 2 ^ 5) cfg.maxEvtqShift)
        % 2 ^ (min (D.eventqBase.toNat % 2 ^ 5) cfg.maxEvtqShift + 1) := by
  simp only [Domain.evtqFull, queueFull_iff, evtqShift_eq, Domain.evtqWr, Domain.evtqRd, index_toNat]

/-! ### Invariants -/

theorem Domain.lineRight_eq (D : Domain) : D.lineRight = (D.gerrLine == D.gerrLevel) := by
  simp only [Domain.lineRight, Domain.gerrLevel, Domain.errorActive, Domain.gerrorIrqen_eq, Domain.cmdqErr_eq,
    Domain.cmdqErrAck_eq]

theorem Domain.reservedZero_eq (D : Domain) : D.reservedZero =
    (D.cr0 &&& ~~~registerMask .cr0 == 0 && D.irqCtrl &&& ~~~registerMask .irqCtrl == 0
      && D.gerror &&& ~~~registerMask .gerror == 0 && D.gerrorn &&& ~~~registerMask .gerrorn == 0
      && D.cmdqProd &&& ~~~registerMask .cmdqProd == 0 && D.cmdqCons &&& ~~~registerMask .cmdqCons == 0
      && D.eventqProd &&& ~~~registerMask .eventqProd == 0 && D.eventqCons &&& ~~~registerMask .eventqCons == 0) := rfl

theorem State.enabledAgrees_eq (s : State) :
    s.enabledAgrees = s.ctls.all (fun e => e.2.enabled == (s.dom e.2.sec).smmuen) := by
  simp only [State.enabledAgrees, Domain.smmuen_eq]

theorem State.windowsWf_eq (s : State) : s.windowsWf = s.ctls.all (fun e => e.2.win.all Window.wf) := rfl

/-! ### Windows and streams -/

theorem Window.permits_eq (w : Window) (kind : AccessKind) : w.permits kind = w.perms.has kind := by
  cases kind <;> simp [Window.permits, Perms.has]

theorem Window.covers_iff (w : Window) (a : Addr) : w.covers a = true ↔ w.Contains a := by
  simp [Window.covers, Window.Contains]

theorem State.streamFor_eq (s : State) (master : Nat) : s.streamFor master = streamOfMaster s.cfg master := rfl

theorem Controller.mem_hits (c : Controller) (va : Addr) (w : Window) : w ∈ c.hits va ↔ w ∈ c.win ∧ w.Contains va := by
  simp [Controller.hits, Window.covers_iff]

theorem Controller.mem_permittingHits (c : Controller) (va : Addr) (kind : AccessKind) (w : Window) :
    w ∈ c.permittingHits va kind ↔ w ∈ c.win ∧ w.Contains va ∧ w.permits kind = true := by
  simp [Controller.permittingHits, Window.covers_iff, Window.permits_eq]

/-! ### The parameters of a walk (R212 to R217) -/

/-- The parameters fail where the selected half is disabled (R214) or its granule encoding is reserved (R215). -/
theorem Walk.params_eq_none {w : Walk}
    (h : if w.req.va.getLsbD 55 then w.cd.epd1 = true ∨ w.cd.tg1 = 0b00#2 else w.cd.epd0 = true ∨ w.cd.tg0 = 0b11#2) :
    w.params = none := by
  unfold Walk.params selectsUpper
  generalize w.req.va.getLsbD 55 = u at *
  cases u <;> rcases h with h | h <;> simp [halfDisabled, granuleShift, tg0Shift, tg1Shift, h]

/-- In every other case they are the table base and the granule's shift: 12, 14 or 16 (R213, R215, C2). -/
theorem Walk.params_eq_some {w : Walk}
    (h : if w.req.va.getLsbD 55 then w.cd.epd1 = false ∧ w.cd.tg1 ≠ 0b00#2 else w.cd.epd0 = false ∧ w.cd.tg0 ≠ 0b11#2) :
    w.params = some
      (w.tableBase.getD (BitVec.ofNat 64 ((if w.req.va.getLsbD 55 then w.cd.ttb1 else w.cd.ttb0).toNat * 16)),
        if w.req.va.getLsbD 55 then if w.cd.tg1 = 0b10#2 then 12 else if w.cd.tg1 = 0b01#2 then 14 else 16
        else if w.cd.tg0 = 0b00#2 then 12 else if w.cd.tg0 = 0b10#2 then 14 else 16) := by
  have base : ∀ x : BitVec 48, (x.setWidth 64 <<< 4 : Addr) = BitVec.ofNat 64 (x.toNat * 16) := by
    intro x
    apply BitVec.eq_of_toNat_eq
    simp [Nat.shiftLeft_eq]
  have lower : ∀ x : BitVec 2, x ≠ 0b11#2 →
      tg0Shift x = some (if x = 0b00#2 then 12 else if x = 0b10#2 then 14 else 16) := by decide
  have upper : ∀ x : BitVec 2, x ≠ 0b00#2 →
      tg1Shift x = some (if x = 0b10#2 then 12 else if x = 0b01#2 then 14 else 16) := by decide
  unfold Walk.params selectsUpper
  generalize w.req.va.getLsbD 55 = u at *
  cases u <;> obtain ⟨h1, h2⟩ := h <;>
    simp [halfDisabled, h1, granuleShift, lower _, upper _, h2, ttbr, Cd.ttbr0, Cd.ttbr1, base]

/-- The entry's address in numbers (R216, R217). -/
theorem Walk.entryAddr_eq (cfg : Config) (w : Walk) (base : Addr) (p : Nat) :
    w.entryAddr cfg base p = base
      + BitVec.ofNat 64 (w.req.va.toNat / 2 ^ (p + (p - 3) * (cfg.maxLevel - w.level)) % 2 ^ (p - 3) * 8) := by
  simp only [Walk.entryAddr, tableIndex, vaShift, pteSize, Nat.shiftRight_eq_div_pow]

end Sys2Proof.Machine
end

