-- ==== Sys2Proof/Tests/Slice0.lean ====
section
/-! SUPPORT. Tests: the well-formedness checks, every constructor's encoding written out from the spec's layouts
(30_encoding.md; the vectors V<n> are those of 95_test_vectors.md), single steps on small states, and for every
obligation with hypotheses a state that meets them. -/

namespace Sys2Proof.Tests

open Sys2Proof.Machine

-- The tests are checked one after another: side by side, each would hold a thread of its own.
set_option Elab.async false

/-! ### Well-formedness: each check refuses an ill-formed term -/

theorem test_wf_command_in_queue : Instr.wf .command (.cmdSync 0 0 0) = true := by decide
theorem test_wf_refuses_entry_in_queue : Instr.wf .command .pteInvalid00 = false := by decide
theorem test_wf_refuses_command_in_table : Instr.wf .pageTableEntry (.cmdSync 0 0 0) = false := by decide
theorem test_layout_wf : Layout.wf 64 [(0, 2), (2, 62)] = true := by decide
theorem test_layout_refuses_empty_field : Layout.wf 64 [(0, 0)] = false := by decide
theorem test_layout_refuses_field_outside : Layout.wf 64 [(60, 5)] = false := by decide
theorem test_layout_refuses_overlap : Layout.wf 64 [(0, 8), (7, 2)] = false := by decide
theorem test_map_refuses_overlap :
    RegSlot.mapWf [⟨.secure, .cr0, 0x20⟩, ⟨.secure, .strtabBase, 0x1C⟩] = false := by decide
theorem test_config_wf : defaultConfig.wf = true := by decide +kernel
theorem test_config_refuses_start_after_last : { defaultConfig with startLevel := 4 }.wf = false := by decide +kernel
theorem test_config_refuses_deep_tables : { defaultConfig with maxLevel := 4 }.wf = false := by decide +kernel
theorem test_config_refuses_command_shift : { defaultConfig with maxCmdqShift := 20 }.wf = false := by decide +kernel
theorem test_config_refuses_event_shift : { defaultConfig with maxEvtqShift := 20 }.wf = false := by decide +kernel
theorem test_config_refuses_stream_ids : { defaultConfig with sidBits := 33 }.wf = false := by decide +kernel
theorem test_config_refuses_ats_bit : { defaultConfig with idr0 := 0x400#32 }.wf = false := by decide +kernel
theorem test_config_refuses_map :
    { defaultConfig with regOffset := ⟨.secure, .cr0, 0x21⟩ :: defaultRegOffset }.wf = false := by decide +kernel

/-! ### Decoding: words written out from the layouts of R116 to R122 and R140 to R142 -/

/-- A command as its two 64-bit halves, the low half at the lower address (R81). -/
def halves (low high : Nat) : List Byte := bytesOf 8 low ++ bytesOf 8 high

/-- V14: bytes as the spec lists them. -/
theorem test_decode_v14 :
    decode .command [0x01#8, 0#8, 0#8, 0#8, 0x07#8, 0#8, 0#8, 0#8, 0#8, 0#8, 0#8, 0#8, 0#8, 0#8, 0#8, 0#8]
      = .ok (.cmdPrefetchConfig false false 0 7) := by decide +kernel
/-- R116: SSec 10, SSV 11, SubstreamID 31:12, StreamID 63:32. -/
theorem test_decode_prefetch_config :
    decode .command (halves 0x89ABCDEF_54321C01 0) = .ok (.cmdPrefetchConfig true true 0x54321#20 0x89ABCDEF#32) := by
  decide +kernel
/-- R117: Size 68:64, Stride 73:69, Address 127:76. -/
theorem test_decode_prefetch_addr :
    decode .command (halves 0x00000007_54321802 0xFEDCBA98765432A3)
      = .ok (.cmdPrefetchAddr false true 0x54321#20 7#32 0x03#5 0x15#5 0xFEDCBA9876543#52) := by decide +kernel
/-- R118 (V17 has the same shape): SSec 10, StreamID 63:32, Leaf 64. -/
theorem test_decode_cfgi_ste :
    decode .command (halves 0x80000005_00000403 1) = .ok (.cmdCfgiSte true 0x80000005#32 true) := by decide +kernel
/-- V19: `CMD_CFGI_ALL`. -/
theorem test_decode_v19 :
    decode .command [0x04#8, 0#8, 0#8, 0#8, 0#8, 0#8, 0#8, 0#8, 0x1F#8, 0#8, 0#8, 0#8, 0#8, 0#8, 0#8, 0#8]
      = .ok (.cmdCfgiSteRange false 0 31) := by decide +kernel
/-- R120: VMID 47:32, ASID 63:48. -/
theorem test_decode_tlbi_nh_all :
    decode .command (halves 0x3344_1122_00000010 0) = .ok (.cmdTlbiNhAll 0x1122#16 0x3344#16) := by decide +kernel
/-- V21. -/
theorem test_decode_tlbi_nh_asid :
    decode .command [0x11#8, 0#8, 0#8, 0#8, 0#8, 0#8, 0x03#8, 0#8, 0#8, 0#8, 0#8, 0#8, 0#8, 0#8, 0#8, 0#8]
      = .ok (.cmdTlbiNhAsid 0 3) := by decide +kernel
/-- R121: VMID 47:32, ASID 63:48, Leaf 64, Address 127:76. -/
theorem test_decode_tlbi_nh_va :
    decode .command (halves 0x3344_1122_00000012 0x5566778899AAB001)
      = .ok (.cmdTlbiNhVa 0x1122#16 0x3344#16 true 0x5566778899AAB#52) := by decide +kernel
theorem test_decode_tlbi_nh_vaa :
    decode .command (halves 0x13 0x4000) = .ok (.cmdTlbiNhVaa 0 0 false 4#52) := by decide +kernel
theorem test_decode_tlbi_el3_all :
    decode .command (halves 0x0001_0002_00000018 0) = .ok (.cmdTlbiEl3All 2#16 1#16) := by decide +kernel
theorem test_decode_tlbi_el3_va :
    decode .command (halves 0x1A 0x4000) = .ok (.cmdTlbiEl3Va 0 0 false 4#52) := by decide +kernel
theorem test_decode_tlbi_el2_all :
    decode .command (halves 0x0001_0002_00000020 0) = .ok (.cmdTlbiEl2All 2#16 1#16) := by decide +kernel
theorem test_decode_tlbi_el2_asid :
    decode .command (halves 0x0003_0000_00000021 0) = .ok (.cmdTlbiEl2Asid 0 3#16) := by decide +kernel
theorem test_decode_tlbi_el2_va :
    decode .command (halves 0x22 0x4000) = .ok (.cmdTlbiEl2Va 0 0 false 4#52) := by decide +kernel
theorem test_decode_tlbi_el2_vaa :
    decode .command (halves 0x23 0x4001) = .ok (.cmdTlbiEl2Vaa 0 0 true 4#52) := by decide +kernel
theorem test_decode_tlbi_s12_vmall :
    decode .command (halves 0x0001_0002_00000028 0) = .ok (.cmdTlbiS12Vmall 2#16 1#16) := by decide +kernel
theorem test_decode_tlbi_s2_ipa :
    decode .command (halves 0x2A 0x4000) = .ok (.cmdTlbiS2Ipa 0 0 false 4#52) := by decide +kernel
theorem test_decode_tlbi_nsnh_all :
    decode .command (halves 0x0001_0002_00000030 0) = .ok (.cmdTlbiNsnhAll 2#16 1#16) := by decide +kernel
/-- R122: CS 13:12, MSIData 63:32, MSIAddress 115:66. -/
theorem test_decode_sync :
    decode .command (halves 0xDEADBEEF_00001046 0x000F_EDCB_A987_654C)
      = .ok (.cmdSync 1#2 0xDEADBEEF#32 0x3FB72EA61D953#50) := by decide +kernel
/-- V35: an opcode outside the recognised set. -/
theorem test_decode_refuses_v35 : decode .command (halves 0xFF 0) = .error (.unrecognisedOpcode 0xFF#8) := by
  decide +kernel
theorem test_decode_refuses_wrong_length : decode .command [0x46#8] = .error (.wrongLength 1) := by decide
/-- V92: bit 10 is reserved in a TLB invalidate, and ignored (R112). -/
theorem test_decode_ignores_reserved :
    decode .command (halves 0x410 0) = .ok (.cmdTlbiNhAll 0 0) := by decide +kernel
/-- R141: kind 1:0, AttrIndx 4:2, NS 5, AP 7:6, SH 9:8, AF 10, nG 11, OutputAddress 47:12, Contiguous 52, PXN 53,
UXN 54. -/
theorem test_decode_block :
    decode .pageTableEntry (bytesOf 8 0xF850_9ABC_DEF0_1B55)
      = .ok (.pteBlock 0b01#2 false true 0x9ABCDEF01#36 ⟨0b101#3, false, 0b11#2, false, true, true⟩) := by
  decide +kernel
/-- R142: as a Block, with PXNTable 59, XNTable 60, APTable 62:61, NSTable 63. -/
theorem test_decode_table :
    decode .pageTableEntry (bytesOf 8 0xC820_0000_0000_14EF)
      = .ok (.pteTable 0b11#2 true false 1#36 ⟨0b011#3, true, 0b00#2, true, false, false⟩ ⟨true, false, 0b10#2, true⟩) := by
  decide +kernel
theorem test_decode_invalid00 : decode .pageTableEntry (bytesOf 8 0xFFFFFFFFFFFFFFFC) = .ok .pteInvalid00 := by
  decide +kernel
/-- V65: low bits 0b10. -/
theorem test_decode_invalid10 : decode .pageTableEntry (bytesOf 8 0x1002) = .ok .pteInvalid10 := by decide +kernel

/-- V36: Stage-1, CD at 0x20000. -/
theorem test_decode_ste :
    let e := decodeSte (bytesOf 64 0x0002000B)
    e.v = true ∧ e.config = .stage1 ∧ e.cdAddr = 0x20000#64 ∧ e.privCfg = .useIncoming := by decide +kernel
/-- V41: low 64 bits 0x200C0800000, next 64 bits 0x30000. -/
theorem test_decode_cd :
    let c := decodeCd (bytesOf 64 0x30000_00000200C0800000)
    c.tg0 = 0 ∧ c.epd0 = false ∧ c.tg1 = 0b10#2 ∧ c.epd1 = true ∧ c.v = true ∧ c.aa64 = true ∧ c.ttbr0 = 0x30000#64 := by
  decide +kernel
/-- V43 and V46: event records. -/
theorem test_event_bytes :
    (makeEvent .permission 5 8 .write true).bytes = bytesOf 32 0x8_00000002_00000000_00000005_00000013
    ∧ (makeEvent .permission 9 0x1000 .execute false).bytes
      = bytesOf 32 0x1000_0000000C_00000000_00000009_00000013 := by decide +kernel

/-! ### The bench: small states -/

/-- Guest memory with byte strings stored in turn. -/
def memoryOf (l : List (Nat × List Byte)) : Memory :=
  l.foldl (fun m p => Memory.writeBytes m (BitVec.ofNat 64 p.1) p.2) []

/-- The STE of V36. -/
def stageOne : Ste := decodeSte (bytesOf 64 0x0002000B)

/-- A controller of stream 5 (NonSecure). -/
def ctl5 (b : Backend) (win : List Window) (skipped : Bool) : Controller :=
  { sid := 5, sec := .nonSecure, backend := b, enabled := true, win := win, skipped := skipped }

/-- The windows of V93. -/
def win4 : Window := { start := 0x4000, stop := 0x5000, offset := 0, perms := ⟨true, true, false⟩ }
def win8 : Window := { start := 0x8000, stop := 0x9000, offset := 0x1000, perms := ⟨true, false, false⟩ }

/-- The NonSecure Domain after P1, with one command queued at 0x8000 and streams 4, 5, 6 and 9 cached. -/
def domain1 : Domain :=
  { Domain.reset with
    cr0 := 0xD, irqCtrl := 0x5, strtabBase := 0x10000, strtabBaseCfg := 8, cmdqBase := 0x8002, cmdqProd := 1
    eventqBase := 0x9001, steCache := [(4, stageOne), (5, stageOne), (6, stageOne), (9, stageOne)] }

/-- Draining, with the 16 bytes of a command at the head of the NonSecure queue. -/
def drainOf (low high : Nat) : State :=
  { State.reset with
    nonSecure := domain1, phase := .draining, mem := memoryOf [(0x8000, halves low high)]
    ctls := [(5, ctl5 .software [win4, win8] false),
      (7, { ctl5 .software [win4] false with sid := 7, sec := .secure, enabled := false })] }

/-- The walk's set-up (CD V41) with an access to `va` at a level of the table at `base`. -/
def walkOf (kind : AccessKind) (va base : Addr) (level : Nat) : Walk :=
  { req := { sid := 5, sec := .nonSecure, backend := .software, va := va, kind := kind, record := true }
    cd := decodeCd (bytesOf 64 0x30000_00000200C0800000), priv := true, level := level, tableBase := some base }

/-- Walking, with a 64-bit entry at 0x33000, the table of the level. -/
def walkingOf (kind : AccessKind) (va : Addr) (level entry : Nat) : State :=
  { State.reset with
    nonSecure := { domain1 with cmdqProd := 0 }, phase := .walking, walk := walkOf kind va 0x33000 level
    mem := memoryOf [(0x33000, bytesOf 8 entry)], ctls := [(5, ctl5 .software [] false)] }

/-- Idle, with the controller of stream 5. -/
def idleWith (c : Controller) : State := { drainOf 0x46 0 with phase := .idle, ctls := [(5, c)] }

/-- The state after one step, if there is one. -/
def after (s : State) : Option State :=
  match step s with
  | .next t => some t
  | .fault _ => none
  | .refused _ => none

/-! ### One step -/

/-- V84, V86, V87, V88: the cache after CMD_CFGI_STE and CMD_CFGI_STE_RANGE. -/
theorem test_cfgi_ste :
    (after (drainOf 0x0000000500000003 0)).map (fun t => (t.nonSecure.steCache.map Prod.fst, t.nonSecure.cmdqCons))
      = some ([4, 6, 9], 1#32) := by decide +kernel
theorem test_cfgi_ste_range :
    ([0, 1, 31].map fun r => (after (drainOf 0x0000000500000004 r)).map (fun t => t.nonSecure.steCache.map Prod.fst))
      = [some [6, 9], some [9], some []] := by decide +kernel
/-- V89: the wrong security tag is `Illegal`: ERR 1, RD unmoved, the flag toggled, the line high (P2). -/
theorem test_wrong_tag :
    (after (drainOf 0x0000000500000403 0)).map
      (fun t => (t.nonSecure.cmdqCons, t.nonSecure.gerror, t.nonSecure.gerrLine, t.nonSecure.steCache.length, t.phase))
      = some (0x01000000#32, 1#32, true, 4, Phase.idle) := by decide +kernel
/-- V93: CMD_TLBI_NH_VA at 0x4000 in the NonSecure Domain; the Secure controller keeps its window. -/
theorem test_tlbi_va :
    (after (drainOf 0x12 0x4000)).map (fun t => t.ctls.map (fun e => e.2.win)) = some [[win8], [win4]] := by
  decide +kernel
/-- V95: CMD_TLBI_NH_ALL. -/
theorem test_tlbi_all :
    (after (drainOf 0x10 0)).map (fun t => t.ctls.map (fun e => e.2.win)) = some [[], [win4]] := by decide +kernel
/-- V99: an opcode outside the set. -/
theorem test_illegal :
    (after (drainOf 0xFF 0)).map (fun t => (t.nonSecure.cmdqCons, t.phase)) = some (0x01000000#32, Phase.idle) := by
  decide +kernel
/-- V40's last entry: the page window, permissions and the answer. -/
theorem test_page :
    (after (walkingOf .read 0 3 0x1043)).map (fun t => (t.response, t.ctls.map (fun e => e.2.win)))
      = some (.allow 0x1000#64,
        [[{ start := 0, stop := 0x1000, offset := 0x1000, perms := ⟨true, true, true⟩ }]]) := by decide +kernel
/-- V112: a write to a read-only page is denied, and the event V43 is recorded. -/
theorem test_page_read_only :
    (after (walkingOf .write 8 3 0x10C3)).map
      (fun t => (t.response, t.nonSecure.eventqProd, Memory.readBytes t.mem 0x9000 32))
      = some (.deny, 1#32, bytesOf 32 0x8_00000002_00000000_00000005_00000013) := by decide +kernel
/-- V67: a Block at level 1. -/
theorem test_block :
    (after { walkingOf .read 0x40001000 1 0 with mem := memoryOf [(0x33008, bytesOf 8 0x80000001)] }).map
      (fun t => t.ctls.map (fun e => e.2.win))
      = some [[{ start := 0x40000000, stop := 0x80000000, offset := 0x40000000, perms := ⟨true, true, false⟩ }]] := by
  decide +kernel
/-- V69: a Block at level 3; V65: an Invalid entry: a translation fault each, event 0x10. -/
theorem test_bad_entries :
    ([0x1001, 0x1002, 0].map fun e => (after (walkingOf .read 0 3 e)).map
      (fun t => (t.response, Memory.read t.mem 0x9000))) = List.replicate 3 (some (.deny, 0x10#8)) := by decide +kernel
/-- A Table entry below the last level. -/
theorem test_table_descends :
    (after (walkingOf .read 0 2 0x34003)).map (fun t => (t.walk.level, t.walk.tableBase, t.phase))
      = some (3, some 0x34000#64, Phase.walking) := by decide +kernel
/-- V122: a write of all ones to CR0 of a fresh machine. -/
theorem test_cr0 :
    (after { State.reset with inputs := [.regWrite .nonSecure .cr0 0xFFFFFFFF] }).map
      (fun t => (t.regRead .nonSecure .cr0, t.regRead .nonSecure .cr0ack)) = some (0xD#64, 0xD#64) := by decide +kernel
/-- V115: a disabled controller lets the access pass. -/
theorem test_disabled :
    (after { idleWith { ctl5 .software [] false with enabled := false } with
      inputs := [.access 5 0xDEAD0000 .write] }).map (fun t => t.response) = some (.allow 0xDEAD0000#64) := by
  decide +kernel
/-- V119, second call: an external abort, the flag cleared. -/
theorem test_second_fault :
    (after { idleWith (ctl5 .hardwareAssisted [win8] true) with inputs := [.access 5 0x8 .write] }).map
      (fun t => (t.response, t.ctls.map (fun e => e.2.skipped))) = some (.externalAbort, [false]) := by decide +kernel

/-! ### The first instruction after reset -/

theorem test_first_command :
    (after (State.reset.withFetchWord 128 0x46)).map (fun t => (t.nonSecure.cmdqCons, t.nonSecure.gerror))
      = some (1#32, 0#32) := by decide +kernel
theorem test_first_entry :
    (after (State.reset.withFetchWord 64 0x31003)).map (fun t => (t.walk.level, t.walk.tableBase))
      = some (1, some 0x31000#64) := by decide +kernel

/-! ### Witnesses: for every obligation with hypotheses, a state and operands that meet them, one for each case -/

/-- DecodeEncodeAgree; LayoutFieldsFitAndDoNotOverlap. -/
theorem test_witness_formats :
    Instr.wf .command (.cmdTlbiNhVa 1 2 true 3) = true ∧ Instr.wf .pageTableEntry .pteInvalid10 = true := by decide

/-- DecodingIgnoresUnnamedBits: V20 and V92 differ in bit 10 only, which CMD_TLBI_NH_ALL does not name; two Invalid
entries differ above bit 1. -/
theorem test_witness_DecodingIgnoresUnnamedBits :
    decodeCommandWord 0x10#128 = .ok (.cmdTlbiNhAll 0 0)
    ∧ (∀ f ∈ commandLayout (.cmdTlbiNhAll 0 0), ∀ k < f.2,
      (0x410#128).getLsbD (f.1 + k) = (0x10#128).getLsbD (f.1 + k))
    ∧ ∀ f ∈ pteLayout (decodePteWord 0x1002#64), ∀ k < f.2,
      (0x2#64).getLsbD (f.1 + k) = (0x1002#64).getLsbD (f.1 + k) := by decide +kernel

/-- StepRunsQueuedCommand; the commands' statements with a compatible tag (the first two conjuncts give the tag both
ways), CommandsStayInTheirDomain, DrainEnds. -/
theorem test_witness_queued_command :
    let s := drainOf 0x0000000500000003 0
    let D := s.dom s.cur
    let q := min (D.cmdqBase.toNat % 2 ^ 5) s.cfg.maxCmdqShift
    let base := D.cmdqBase.toNat / 2 ^ 5 % 2 ^ 47 * 2 ^ 5 / 2 ^ (q + 4) * 2 ^ (q + 4)
    let addr := BitVec.ofNat 64 (base + D.cmdqCons.toNat % 2 ^ 20 % 2 ^ q * 16)
    D.cmdqProd.toNat % 2 ^ 20 % 2 ^ (q + 1) ≠ D.cmdqCons.toNat % 2 ^ 20 % 2 ^ (q + 1) ∧ addr = 0x8000#64
    ∧ s.memAborts addr 16 = false ∧ decode .command (Memory.readBytes s.mem addr 16) = .ok (.cmdCfgiSte false 5 false)
    ∧ s.cfg.wf = true ∧ s.phase = .draining
    ∧ (s.cur, SecurityState.nonSecure) ∈ s.cfg.secCompat ∧ (s.cur, SecurityState.secure) ∉ s.cfg.secCompat := by
  decide +kernel

/-- StepRunsQueuedCommand: the same Domain with the queue empty; StepRunsPlacedWord: idle with an operation and without. -/
theorem test_witness_final_peek_and_idle :
    let s : State := { drainOf 0 0 with nonSecure := { domain1 with cmdqCons := 1 } }
    let t : State := { State.reset with inputs := [.reset, .memFaults []] }
    s.phase = .draining ∧ (s.dom s.cur).cmdqProd = 1 ∧ (s.dom s.cur).cmdqCons = 1
    ∧ t.phase = .idle ∧ t.inputs = .reset :: [.memFaults []] ∧ State.reset.phase = .idle ∧ State.reset.inputs = [] := by
  decide +kernel

theorem test_witness_CommandsStayInTheirDomain :
    Instr.format (.cmdTlbiNhAll 0 0) = .command ∧ ∃ t, exec (.cmdTlbiNhAll 0 0) (drainOf 0x10 0) = .next t
      ∧ Assoc.get? (drainOf 0x10 0).ctls 7 ≠ none := ⟨rfl, _, rfl, by decide +kernel⟩

/-- StepRunsWalkEntry, BlockEntryEndsTheWalk (its three cases are levels 3, 2 and 2 with an address too large),
TableEntryAtLastLevelIsAPage, TableEntryBelowLastLevelDescends, StepsOfAWalkAreTheWalk. -/
theorem test_witness_walk_entry :
    let s := walkingOf .read 0 3 0x1001
    s.phase = .walking ∧ s.walk.params = some (0x33000#64, 12)
    ∧ s.walk.req.va.getLsbD 55 = false ∧ s.walk.cd.epd0 = false ∧ s.walk.cd.tg0 = 0b00#2
    ∧ 0x33000#64 + BitVec.ofNat 64
        (s.walk.req.va.toNat / 2 ^ (12 + (12 - 3) * (s.cfg.maxLevel - s.walk.level)) % 2 ^ (12 - 3) * 8) = 0x33000#64
    ∧ s.memAborts 0x33000#64 8 = false
    ∧ decode .pageTableEntry (Memory.readBytes s.mem 0x33000#64 8)
      = .ok (.pteBlock 0 false false 1 ⟨0, false, 0, false, false, false⟩)
    ∧ s.walk.level = s.cfg.maxLevel ∧ (walkingOf .read 0 2 0x1001).walk.level < s.cfg.maxLevel := by decide +kernel

/-- The walk of an access to `va` with each granule encoding of either half and both halves enabled. -/
def openWalk (va : Addr) (tg0 tg1 : BitVec 2) : Walk :=
  { walkOf .read va 0 0 with
    cd := { openCd with tg0 := tg0, tg1 := tg1, epd0 := false, epd1 := false, ttb0 := 0x3000, ttb1 := 0x5000 }
    tableBase := none }

/-- StepRunsWalkEntry: all three granules are legal in both halves (C2); bit 55 selects the half and its base register. -/
theorem test_witness_granules :
    ([0b00#2, 0b10#2, 0b01#2].map fun tg => (openWalk 0xFF7FFFFFFFFFFFFF tg 0b00#2).params)
      = [some (0x30000#64, 12), some (0x30000#64, 14), some (0x30000#64, 16)]
    ∧ ([0b10#2, 0b01#2, 0b11#2].map fun tg => (openWalk 0x0080000000000000 0b11#2 tg).params)
      = [some (0x50000#64, 12), some (0x50000#64, 14), some (0x50000#64, 16)]
    ∧ (openWalk 0xFF7FFFFFFFFFFFFF 0 0).req.va.getLsbD 55 = false
    ∧ (openWalk 0x0080000000000000 0 0).req.va.getLsbD 55 = true := by decide +kernel

/-- BlockEntryEndsTheWalk: a Block at level 1 with the 16 KiB granule (V76). -/
theorem test_witness_block_level1_16k :
    let w := { walkOf .read 0 0x33000 1 with cd := { openCd with tg0 := 0b10#2 } }
    w.params = some (0x33000#64, 14) ∧ w.level = 1 := by decide +kernel

/-- The address-size cases of the entries: a 32-bit CD and an output address at 2^40; just below it there is none, nor
with a 64-bit CD. -/
theorem test_witness_address_size :
    let w := { walkOf .read 0 0x33000 2 with cd := { openCd with aa64 := false } }
    w.params = some (0x33000#64, 12) ∧ w.cd.aa64 = false
    ∧ BitVec.ofNat 64 ((0x10000000#36).toNat * 4096) &&& defaultConfig.oaReservedMask32 ≠ 0#64
    ∧ BitVec.ofNat 64 ((0xFFFFFFF#36).toNat * 4096) &&& defaultConfig.oaReservedMask32 = 0#64
    ∧ BitVec.ofNat 64 ((0x10000000#36).toNat * 4096) &&& defaultConfig.oaReservedMask64 = 0#64 := by decide +kernel

/-- StepRunsPlacedWord. -/
theorem test_witness_StepRunsPlacedWord :
    State.reset.cfg.wf = true ∧ decodeTableWord 128 0x46 = some (.cmdSync 0 0 0)
    ∧ decodeTableWord 64 0x2 = some .pteInvalid10 := by decide +kernel

/-- UnrecognisedOpcodeFailsOrIsExtraNop, both cases. -/
theorem test_witness_UnrecognisedOpcode :
    let s := drainOf 0xFF 0
    let u : State := { s with cfg := { defaultConfig with extraNopOpcodes := [0xFF#8] } }
    let D := s.dom s.cur
    let q := min (D.cmdqBase.toNat % 2 ^ 5) s.cfg.maxCmdqShift
    let base := D.cmdqBase.toNat / 2 ^ 5 % 2 ^ 47 * 2 ^ 5 / 2 ^ (q + 4) * 2 ^ (q + 4)
    let addr := BitVec.ofNat 64 (base + D.cmdqCons.toNat % 2 ^ 20 % 2 ^ q * 16)
    s.cfg.wf = true ∧ s.phase = .draining
    ∧ D.cmdqProd.toNat % 2 ^ 20 % 2 ^ (q + 1) ≠ D.cmdqCons.toNat % 2 ^ 20 % 2 ^ (q + 1) ∧ s.memAborts addr 16 = false
    ∧ decode .command (Memory.readBytes s.mem addr 16) = .error (.unrecognisedOpcode 0xFF#8)
    ∧ 0xFF#8 ∉ s.cfg.extraNopOpcodes ∧ u.cfg.wf = true ∧ 0xFF#8 ∈ u.cfg.extraNopOpcodes := by decide +kernel

/-- FailingCommandFetchIsAbort. -/
theorem test_witness_FailingCommandFetchIsAbort :
    let s : State := { drainOf 0x46 0 with cfg := { defaultConfig with memCanAbort := true }, failing := [(0x800F, 0x8010)] }
    let D := s.dom s.cur
    let q := min (D.cmdqBase.toNat % 2 ^ 5) s.cfg.maxCmdqShift
    let base := D.cmdqBase.toNat / 2 ^ 5 % 2 ^ 47 * 2 ^ 5 / 2 ^ (q + 4) * 2 ^ (q + 4)
    let addr := BitVec.ofNat 64 (base + D.cmdqCons.toNat % 2 ^ 20 % 2 ^ q * 16)
    s.phase = .draining ∧ D.cmdqProd.toNat % 2 ^ 20 % 2 ^ (q + 1) ≠ D.cmdqCons.toNat % 2 ^ 20 % 2 ^ (q + 1)
    ∧ s.memAborts addr 16 = true := by decide +kernel

/-- DisabledHalfOrReservedGranuleFailsTheWalk: the lower half with TG0 reserved, the upper half disabled (V72, V73). -/
theorem test_witness_DisabledHalf :
    let s := walkingOf .read 0x0080000000000000 0 0
    let u : State := { s with walk := { walkOf .read 0 0x33000 0 with cd := { openCd with tg0 := 0b11#2 } } }
    s.phase = .walking ∧ s.walk.req.va.getLsbD 55 = true ∧ s.walk.cd.epd1 = true
    ∧ u.phase = .walking ∧ u.walk.req.va.getLsbD 55 = false ∧ u.walk.cd.tg0 = 0b11#2 := by decide +kernel

/-- DisabledHalfOrReservedGranuleFailsTheWalk: good parameters, and the entry's last byte fails. -/
theorem test_witness_failing_entry :
    let s : State :=
      { walkingOf .read 0 3 0 with cfg := { defaultConfig with memCanAbort := true }, failing := [(0x33007, 0x33008)] }
    s.phase = .walking ∧ s.walk.tableBase = some 0x33000#64
    ∧ s.walk.req.va.getLsbD 55 = false ∧ ¬(s.walk.cd.epd0 = true ∨ s.walk.cd.tg0 = 0b11#2) ∧ s.walk.cd.tg0 = 0b00#2
    ∧ 0x33000#64 + BitVec.ofNat 64
        (s.walk.req.va.toNat / 2 ^ (12 + (12 - 3) * (s.cfg.maxLevel - s.walk.level)) % 2 ^ (12 - 3) * 8) = 0x33000#64
    ∧ s.memAborts 0x33000#64 8 = true := by decide +kernel

/-- WalkWindowCoversItsAddress: V40's last level. -/
theorem test_witness_WalkWindow :
    let s := walkingOf .read 0xFFF 3 0x1043
    s.cfg.wf = true ∧ Walk.result s 1 s.walk =
      .window { start := 0, stop := 0x1000, offset := 0x1000, perms := ⟨true, true, true⟩ } := by decide +kernel

/-- SoftwareControllerJudgesByTheWindow, FirstFaultInstallsAndRetries, TwoFaultsAbortOnTheSecond,
SecondFaultAbortsWithoutAWalk: requests of both back-ends on a window that permits Read and not Write. -/
theorem test_witness_finish_access :
    let c := ctl5 .hardwareAssisted [] false
    let s := idleWith c
    let r := c.request 0x8000 .write true
    r.backend = .hardwareAssisted ∧ ((ctl5 .software [] false).request 0x8000 .read true).backend = .software
    ∧ Assoc.get? s.ctls r.sid.toNat = some c ∧ r.sid = s.streamFor 5 ∧ c.sid = r.sid
    ∧ c.backend = .hardwareAssisted ∧ c.enabled = true ∧ c.win = [] ∧ win8.permits r.kind = false
    ∧ win8.permits .read = true := by decide +kernel

/-- The permission events' privilege, in the statements of both back-ends: no cached STE, one that says Unprivileged, and
one that does not. -/
theorem test_witness_cached_privilege :
    let s := drainOf 0x46 0
    let u := s.setDom .nonSecure { domain1 with steCache := [(5, decodeSte (bytesOf 64 (0x2000B + 2 * 2 ^ 112)))] }
    Assoc.get? (s.dom .nonSecure).steCache 7 = none
    ∧ (Assoc.get? (u.dom .nonSecure).steCache 5).map Ste.privCfg = some .unprivileged
    ∧ (Assoc.get? (s.dom .nonSecure).steCache 5).map Ste.privCfg = some .useIncoming := by decide +kernel

theorem test_witness_SecondFault :
    let c := ctl5 .hardwareAssisted [win8] true
    let s := idleWith c
    Assoc.get? s.ctls (s.streamFor 5).toNat = some c ∧ c.sid = s.streamFor 5 ∧ c.enabled = true
    ∧ c.backend = .hardwareAssisted ∧ c.skipped = true
    ∧ c.win = [win8] ∧ win8.start.toNat ≤ 0x8000 ∧ win8.permits .write = false := by decide +kernel

/-- DisabledControllerPassesThrough. -/
theorem test_witness_DisabledController :
    let c := { ctl5 .software [] false with enabled := false }
    Assoc.get? (idleWith c).ctls ((idleWith c).streamFor 5).toNat = some c ∧ c.enabled = false := by decide +kernel

/-- CachedWindowServesTheAccess: both back-ends, at the first and the last byte of a window; the software miss just past
it, and the hardware miss of a covering window that does not permit a Write. -/
theorem test_witness_CachedWindow :
    let c := ctl5 .software [win4, win8] false
    let h := ctl5 .hardwareAssisted [win4, win8] false
    let covers := fun (w : Window) (va : Addr) => w.start.toNat ≤ va.toNat ∧ va.toNat < w.stop
    Assoc.get? (idleWith c).ctls ((idleWith c).streamFor 5).toNat = some c ∧ c.enabled = true ∧ c.backend = .software
    ∧ win4 ∈ c.win ∧ covers win4 0x4000 ∧ covers win4 0x4FFF ∧ (∀ w ∈ c.win, ¬covers w 0x5000)
    ∧ Assoc.get? (idleWith h).ctls ((idleWith h).streamFor 5).toNat = some h ∧ h.enabled = true
    ∧ h.backend = .hardwareAssisted ∧ h.skipped = false
    ∧ win8 ∈ h.win ∧ covers win8 0x8FFF ∧ win8.permits .read = true
    ∧ ∀ w ∈ h.win, ¬(covers w 0x8FFF ∧ w.permits .write = true) := by decide +kernel

/-- V113: a Write through a cached window that permits Read only is denied, with one permission event. -/
theorem test_cached_window_denies :
    (after { idleWith (ctl5 .software [win8] false) with inputs := [.access 5 0x8000 .write] }).map
      (fun t => (t.response, t.nonSecure.eventqProd, Memory.read t.mem 0x9000)) = some (.deny, 1#32, 0x13#8) := by
  decide +kernel

/-- AttachMakesAFreshController: stream 6, of master 6, has no controller, stream 5 has one. -/
theorem test_witness_Attach :
    Assoc.get? (drainOf 0x46 0).ctls 6 = none ∧ (drainOf 0x46 0).streamFor 6 = 6
    ∧ Assoc.get? (drainOf 0x46 0).ctls 5 = some (ctl5 .software [win4, win8] false) := by decide +kernel

/-- CachedSteDecidesTheTranslation: stream 5 is cached; the seven cases: invalid, stage 2, abort, bypass, a failing CD
fetch, an invalid CD, a valid CD. -/
theorem test_witness_CachedSte :
    Assoc.get? ((drainOf 0x46 0).dom .nonSecure).steCache 5 = some stageOne ∧ stageOne.v = true
    ∧ stageOne.config = .stage1 ∧ (decodeSte (bytesOf 64 0)).v = false ∧ (decodeSte (bytesOf 64 0xD)).config = .stage2
    ∧ (decodeSte (bytesOf 64 1)).config = .abort ∧ (decodeSte (bytesOf 64 9)).config = .bypass
    ∧ State.memAborts { State.reset with cfg := { defaultConfig with memCanAbort := true }, failing := [(0x2003F, 0x20040)] }
      0x20000 64 = true
    ∧ (decodeCd (bytesOf 64 0)).v = false ∧ (decodeCd (bytesOf 64 0x80000000)).v = true := by decide +kernel

/-- UncachedSteIsFetchedAndCached: stream 7 is not cached and within the table; stream 256 and a two-level table are
not (V49, V50). -/
theorem test_witness_UncachedSte :
    let s := drainOf 0x46 0
    Assoc.get? (s.dom .nonSecure).steCache 7 = none ∧ 7 < 2 ^ s.cfg.sidBits
    ∧ 7 < 2 ^ ((s.dom .nonSecure).strtabBaseCfg.toNat % 2 ^ 6)
    ∧ (s.dom .nonSecure).strtabBaseCfg.toNat / 2 ^ 16 % 2 ^ 2 = 0
    ∧ Assoc.get? (s.dom .nonSecure).steCache 256 = none ∧ 2 ^ s.cfg.sidBits ≤ 256
    ∧ (0x10008#32).toNat / 2 ^ 16 % 2 ^ 2 ≠ 0 := by decide +kernel

/-- OverflowTogglesOnlyWhenAcknowledged and SecondOverflowBeforeAckIsInvisible (a full queue, acknowledged and not);
SuppressedEventChangesNothing (the queue disabled; enabled, not full and its slot's last byte failing). -/
theorem test_witness_events :
    let s := drainOf 0x46 0
    let full : State := { s with nonSecure := { domain1 with eventqProd := 2 } }
    let u : State := { s with cfg := { defaultConfig with memCanAbort := true }, failing := [(0x901F, 0x9020)] }
    (full.dom .nonSecure).cr0.getLsbD 2 = true
    ∧ (full.dom .nonSecure).eventqBase.toNat % 2 ^ 5 = 1 ∧ (full.dom .nonSecure).eventqCons = 0
    ∧ 2 % 2 ^ 20 % 2 ^ (1 + 1) = (0 % 2 ^ 20 + 2 ^ 1) % 2 ^ (1 + 1)
    ∧ (2#32).getLsbD 31 = (0#32).getLsbD 31
    ∧ (0x80000002#32).toNat % 2 ^ 20 = 2 ∧ (0x80000002#32).getLsbD 31 ≠ (0#32).getLsbD 31
    ∧ (0x80000002#32).getLsbD 31 = (0x80000000#32).getLsbD 31 ∧ (0x80000000#32).toNat % 2 ^ 20 = 0
    ∧ (State.reset.dom .nonSecure).cr0.getLsbD 2 = false
    ∧ (u.dom .nonSecure).cr0.getLsbD 2 = true ∧ (u.dom .nonSecure).eventqProd = 0
    ∧ (0 : Nat) % 2 ^ 20 % 2 ^ (1 + 1) ≠ (0 % 2 ^ 20 + 2 ^ 1) % 2 ^ (1 + 1)
    ∧ u.memAborts 0x9000#64 32 = true := by decide +kernel

/-- R304, R307: OVFLG toggles on an overflow where OVACKFLG (bit 31 of EVENTQ_CONS, written by software) equals it, and
stays where it differs. -/
theorem test_overflow_acknowledged :
    let s := fun prod cons : BitVec 32 =>
      { drainOf 0x46 0 with nonSecure := { domain1 with eventqProd := prod, eventqCons := cons } }
    let e := makeEvent .permission 5 0 .read true
    ([(0x2#32, 0#32), (0x80000002#32, 0#32), (0x80000002#32, 0x80000000#32)].map fun r =>
      (State.signalEvent (s r.1 r.2) .nonSecure e true).nonSecure.eventqProd) = [0x80000002#32, 0x80000002#32, 0x2#32] := by
  decide +kernel

/-- RecordedEventIsWrittenAndCounted: the queue of `domain1` (two slots at 0x9000) empty, and with one event. -/
theorem test_witness_RecordedEvent :
    let s := drainOf 0x46 0
    let D := s.dom .nonSecure
    let q := min (D.eventqBase.toNat % 2 ^ 5) s.cfg.maxEvtqShift
    let base := D.eventqBase.toNat / 2 ^ 5 % 2 ^ 47 * 2 ^ 5 / 2 ^ (q + 5) * 2 ^ (q + 5)
    let consume := D.eventqCons.toNat % 2 ^ 20
    s.cfg.wf = true ∧ D.cr0.getLsbD 2 = true ∧ q = 1 ∧ base = 0x9000 ∧ consume = 0 ∧ D.eventqProd = 0#32
    ∧ s.memAborts (BitVec.ofNat 64 (base + 0 % 2 ^ q * 32)) 32 = false
    ∧ s.memAborts (BitVec.ofNat 64 (base + 1 % 2 ^ q * 32)) 32 = false
    ∧ 0 % 2 ^ (q + 1) ≠ (consume + 2 ^ q) % 2 ^ (q + 1) ∧ 1 % 2 ^ (q + 1) ≠ (consume + 2 ^ q) % 2 ^ (q + 1)
    ∧ 0 % 2 ^ (q + 1) = consume % 2 ^ (q + 1) ∧ 1 % 2 ^ (q + 1) ≠ consume % 2 ^ (q + 1) := by decide +kernel

/-- R161, R162: a queue of 2^9 commands asked for, clamped to 2^8, so that its base is a multiple of 4096. -/
theorem test_queue_geometry :
    ({ domain1 with cmdqBase := 0x18029, cmdqCons := 0x3FF } : Domain).cmdAddr defaultConfig = 0x18FF0#64 := by
  decide +kernel

/-- FullExactlyAfterCapacityEnqueues (T1): empty, full and neither. -/
theorem test_witness_FullExactly :
    queueEmpty ((QueuePos.adv 2)^[1] (queuePos 2 0b011)) ((QueuePos.adv 2)^[1] (queuePos 2 0b011)) = true
    ∧ queueFull ((QueuePos.adv 2)^[5] (queuePos 2 0b011)) ((QueuePos.adv 2)^[1] (queuePos 2 0b011)) = true
    ∧ queueFull ((QueuePos.adv 2)^[4] (queuePos 2 0b011)) ((QueuePos.adv 2)^[1] (queuePos 2 0b011)) = false := by
  decide +kernel

/-- ProduceWriteStartsTheDrain: CMDQEN set and clear; PlainRegisterWritesAreReadBack and ReadOnlyRegistersIgnoreWrites
take the registers of their lists. -/
theorem test_witness_register_writes :
    (idleWith (ctl5 .software [] false)).nonSecure.cr0.getLsbD 3 = true ∧ State.reset.nonSecure.cr0.getLsbD 3 = false
    ∧ (RegName.eventqProd, 0x800FFFFF#64) ∈ [(RegName.eventqProd, 0x800FFFFF#64)]
    ∧ RegName.gerror ∈ [RegName.cr0ack, .irqCtrlAck, .idr0, .idr1, .gerror] := by decide +kernel

/-- AcknowledgeClearsTheError, both styles, each with an acknowledging write and one that does not acknowledge. -/
theorem test_witness_Acknowledge :
    let s : State := { State.reset with nonSecure := { Domain.reset with gerror := 1 } }
    s.cfg.ackStyle = .toggleMatch ∧ (1#64).getLsbD 0 = (s.dom .nonSecure).gerror.getLsbD 0
    ∧ (0#64).getLsbD 0 ≠ (s.dom .nonSecure).gerror.getLsbD 0
    ∧ { defaultConfig with ackStyle := .write1 }.ackStyle = .write1 := by decide +kernel

/-- V123: enabling the global-error interrupt while an error is active raises the line at once. -/
theorem test_irq_ctrl_raises_line :
    (after { State.reset with nonSecure := { Domain.reset with gerror := 1 }, inputs := [.regWrite .nonSecure .irqCtrl 1] }).map
      (fun t => t.nonSecure.gerrLine) = some true := by decide +kernel

/-- UnlistedOffsetReadsZeroAndIgnoresWrites: CMDQ_BASE and CMDQ_PROD of the Secure Domain at their offsets; V129, and the
last byte before a register. -/
theorem test_witness_UnlistedOffset :
    State.reset.cfg.wf = true ∧ ⟨.secure, .cmdqBase, 0x8090⟩ ∈ State.reset.cfg.regOffset
    ∧ ⟨.secure, .cmdqProd, 0x8098⟩ ∈ State.reset.cfg.regOffset
    ∧ (∀ t ∈ State.reset.cfg.regOffset, t.offset + t.reg.bytes ≤ 0x0C0 ∨ 0x0C0 + 4 ≤ t.offset)
    ∧ ∀ t ∈ State.reset.cfg.regOffset, t.offset + t.reg.bytes ≤ 0x1F ∨ 0x1F + 1 ≤ t.offset := by decide +kernel

/-- UnlistedOffsetReadsZeroAndIgnoresWrites: one byte of CMDQ_PROD is a partial access; so is half of CMDQ_BASE. -/
theorem test_witness_partial_access :
    ∀ a ∈ [(0x98, 1), (0x90, 4)],
      (∀ r ∈ State.reset.cfg.regOffset, ¬(r.offset = a.1 ∧ r.reg.bytes = a.2))
      ∧ ∃ r ∈ State.reset.cfg.regOffset, r.offset < a.1 + a.2 ∧ a.1 < r.offset + r.reg.bytes := by decide +kernel

/-- R84, R11: a store across the top of the address space; R96: the failing ranges are named. -/
theorem test_store_wraps :
    (after { State.reset with inputs := [.store 0xFFFFFFFFFFFFFFFF [1#8, 2#8]] }).map (fun t => (t.mem, t.response))
      = some ([(0, 2#8), (0xFFFFFFFFFFFFFFFF, 1#8)], .done) := by decide +kernel
theorem test_mem_faults :
    (after { State.reset with inputs := [.memFaults [(0x10, 0x20)]] }).map (fun t => t.failing) = some [(0x10, 0x20)] := by
  decide +kernel

/-- The statements on every step: a draining and a walking state that meet the invariants, and have a step. -/
theorem test_witness_invariants :
    ∀ s ∈ [drainOf 0x0000000500000403 0, walkingOf .write 8 3 0x10C3],
      s.cfg.wf = true ∧ s.memoryCanonical = true ∧ s.linesRight = true ∧ s.enabledAgrees = true ∧ s.reservedZero = true
      ∧ s.windowsWf = true ∧ s.mapsWf = true ∧ s.walkInRange = true ∧ (after s).isSome = true := by decide +kernel

/-- WalksRaiseNoCommandError. -/
theorem test_witness_WalksRaiseNoCommandError :
    Instr.format .pteInvalid00 = .pageTableEntry ∧ ∃ t, exec .pteInvalid00 (walkingOf .write 8 3 0) = .next t :=
  ⟨rfl, _, rfl⟩

end Sys2Proof.Tests
end

section
/-! SUPPORT. What a command error leaves and changes (R257, R409), in the words of the statements: `commandFailed` meets
the frame `CommandFails` with the error's code. -/

namespace Sys2Proof

/-- Writing a field leaves every bit that a mask outside the field selects. -/
theorem Field.set_and_of_disjoint {w n : Nat} (f : Field w) (v : BitVec w) (x : BitVec n) {m : BitVec n}
    (h : (f.put (BitVec.allOnes w) : BitVec n) &&& m = 0#n) : f.set v x &&& m = x &&& m := by
  apply BitVec.eq_of_getLsbD_eq
  intro i hi
  have outside := congrArg (fun y => BitVec.getLsbD y i) h
  by_cases hlo : i < f.lo
  · simp [Field.set, Field.put, hi, hlo]
  · by_cases hw : i - f.lo < w
    · have hm : m.getLsbD i = false := by simpa [Field.put, hi, hlo, hw] using outside
      simp [hm]
    · have hv : v.getLsbD (i - f.lo) = false := BitVec.getLsbD_of_ge _ _ (by omega)
      simp [Field.set, Field.put, hi, hlo, hw, hv]

end Sys2Proof

namespace Sys2Proof.Machine

/-- The Domain after a command error: ERR, the error flag and the line are the only fields that change (R409). -/
theorem Domain.takeCommandError_eq (cfg : Config) (D : Domain) (r : CmdError) :
    D.takeCommandError cfg r = { D with
      cmdqCons := RegField.err.set r.code D.cmdqCons
      gerror := (D.takeCommandError cfg r).gerror
      gerrLine := (D.takeCommandError cfg r).gerrLine } := by
  unfold Domain.takeCommandError
  split <;> rfl

@[simp] theorem Domain.takeCommandError_cmdqCons (cfg : Config) (D : Domain) (r : CmdError) :
    (D.takeCommandError cfg r).cmdqCons = RegField.err.set r.code D.cmdqCons := by
  rw [Domain.takeCommandError_eq]

@[simp] theorem Domain.takeCommandError_irqCtrl (cfg : Config) (D : Domain) (r : CmdError) :
    (D.takeCommandError cfg r).irqCtrl = D.irqCtrl := by
  rw [Domain.takeCommandError_eq]

@[simp] theorem Domain.takeCommandError_gerrorn (cfg : Config) (D : Domain) (r : CmdError) :
    (D.takeCommandError cfg r).gerrorn = D.gerrorn := by
  rw [Domain.takeCommandError_eq]

/-- The error flag toggles unless the debounce holds it (R257, D15). -/
theorem Domain.takeCommandError_gerror (cfg : Config) (D : Domain) (r : CmdError) :
    (D.takeCommandError cfg r).gerror =
      if cfg.cmdqErrDebounce && D.errorActive then D.gerror
      else RegField.cmdqErr.set (BitVec.ofBool (!D.cmdqErr)) D.gerror := by
  unfold Domain.takeCommandError
  split <;> rfl

/-- The line is recomputed from the fields after the error (R59). -/
theorem Domain.takeCommandError_gerrLine (cfg : Config) (D : Domain) (r : CmdError) :
    (D.takeCommandError cfg r).gerrLine = (D.takeCommandError cfg r).gerrLevel := rfl

/-- Bit 0 of GERROR after a command error. -/
theorem Domain.takeCommandError_cmdqErr (cfg : Config) (D : Domain) (r : CmdError) :
    (D.takeCommandError cfg r).cmdqErr =
      if cfg.cmdqErrDebounce && D.errorActive then D.cmdqErr else !D.cmdqErr := by
  rw [Domain.cmdqErr, Domain.takeCommandError_gerror]
  split
  · rfl
  · exact Field.flag_set_same _ _ _ (by decide)

/-- The reserved bits of GERROR after a command error. -/
theorem Domain.takeCommandError_gerror_rest (cfg : Config) (D : Domain) (r : CmdError) :
    (D.takeCommandError cfg r).gerror &&& 0xFFFFFFFE#32 = D.gerror &&& 0xFFFFFFFE#32 := by
  rw [Domain.takeCommandError_gerror]
  split
  · rfl
  · exact Field.set_and_of_disjoint _ _ _ (by decide)

/-- The error entry meets the statements' frame, whatever the error (R257, R409). -/
theorem State.commandFailed_commandFails (s : State) (r : CmdError) :
    s.CommandFails (s.commandFailed s.cur r) r.code := by
  have hdom : (s.commandFailed s.cur r).dom s.cur = (s.dom s.cur).takeCommandError s.cfg r := by
    simp [State.commandFailed]
  unfold State.CommandFails
  rw [hdom]
  refine ⟨?rest, fun _ => ?mem, ?ctls, rfl, rfl, fun d hd => ?others, ?domain, ?code, ?cons, ?gerror, ?flag, ?line⟩
  case rest => simp [State.SameRest, State.commandFailed]
  case mem => simp [State.commandFailed]
  case ctls => simp [State.commandFailed]
  case others => simp [State.commandFailed, State.setDom_dom_other s _ hd]
  case domain =>
    rw [Domain.takeCommandError_cmdqCons]
    exact Domain.takeCommandError_eq _ _ _
  case code =>
    rw [Domain.takeCommandError_cmdqCons]
    exact Field.get_set_same RegField.err _ _ (by decide)
  case cons =>
    rw [Domain.takeCommandError_cmdqCons]
    exact Field.set_and_of_disjoint _ _ _ (by decide)
  case gerror => exact Domain.takeCommandError_gerror_rest _ _ _
  case flag =>
    simpa only [Domain.errorActive, Domain.cmdqErr_eq, Domain.cmdqErrAck_eq] using
      Domain.takeCommandError_cmdqErr s.cfg (s.dom s.cur) r
  case line =>
    rw [Domain.takeCommandError_gerrLine]
    simp only [Domain.gerrLevel, Domain.errorActive, Domain.gerrorIrqen_eq, Domain.cmdqErr_eq, Domain.cmdqErrAck_eq,
      Domain.takeCommandError_irqCtrl, Domain.takeCommandError_gerrorn]

end Sys2Proof.Machine
end

section
/-! SUPPORT. What the next step fetches and runs: a step by its phase, a command at the head of the queue, an entry of a
walk, and a word that `withFetchWord` has placed. -/

namespace Sys2Proof.Machine

/-! ### A step by its phase (R88, R252, R211) -/

theorem step_of_draining {s : State} (h : s.phase = .draining) : step s = stepDrain s := by
  simp [step, h]

theorem step_of_walking {s : State} (h : s.phase = .walking) : step s = stepWalk s := by
  simp [step, h]

theorem step_of_idle_nil {s : State} (h : s.phase = .idle) (hi : s.inputs = []) : step s = .next s := by
  simp [step, h, hi]

theorem step_of_idle_cons {s : State} {i : Input} {rest : List Input} (h : s.phase = .idle)
    (hi : s.inputs = i :: rest) : step s = State.perform { s with inputs := rest } i := by
  simp [step, h, hi]

/-! ### A pass of the drain (R167, R252, R281) -/

/-- A failing fetch at the head of a queue that is not empty is the error `Abort` (R281). -/
theorem step_of_failing_command {s : State} (hp : s.phase = .draining) (he : (s.dom s.cur).cmdqEmpty s.cfg = false)
    (ha : s.memAborts s.commandAddr cmdSize = true) : step s = .next (s.commandFailed s.cur .abort) := by
  rw [State.commandAddr] at ha
  rw [step_of_draining hp, stepDrain]
  rcases s.tryPeek_cases s.cur with ⟨h, _⟩ | ⟨_, _, e⟩ | ⟨_, h, _⟩
  · simp [h] at he
  · rw [e]
  · simp [h] at ha

/-- A command that stands at the head of the queue and can be fetched is executed (R252). -/
theorem step_of_queued_command {s : State} {i : Instr} (hp : s.phase = .draining)
    (he : (s.dom s.cur).cmdqEmpty s.cfg = false) (ha : s.memAborts s.commandAddr cmdSize = false)
    (hd : decode .command (Memory.readBytes s.mem s.commandAddr cmdSize) = .ok i) : step s = exec i s := by
  rw [State.commandAddr] at ha hd
  rw [step_of_draining hp, stepDrain]
  rcases s.tryPeek_cases s.cur with ⟨h, _⟩ | ⟨_, h, _⟩ | ⟨_, _, e⟩
  · simp [h] at he
  · simp [h] at ha
  · simp only [e, hd]

/-! ### A pass of the walk (R211) -/

/-- An entry that the walk's parameters select and that can be fetched is executed (R211). -/
theorem step_of_walk_entry {s : State} {i : Instr} {base : Addr} {p : Nat} (hp : s.phase = .walking)
    (hw : s.walk.params = some (base, p)) (ha : s.memAborts (s.walk.entryAddr s.cfg base p) pteSize = false)
    (hd : decode .pageTableEntry (Memory.readBytes s.mem (s.walk.entryAddr s.cfg base p) pteSize) = .ok i) :
    step s = exec i s := by
  have hf : s.fetch (s.walk.entryAddr s.cfg base p) pteSize
      = some (Memory.readBytes s.mem (s.walk.entryAddr s.cfg base p) pteSize) := by
    simp [State.fetch, ha]
  rw [step_of_walking hp]
  simp only [stepWalk, hw, hf, hd]

/-! ### Advanced indices (R166) -/

/-- Advancing a position counts its packed value up by one modulo twice the capacity (R166). -/
theorem pack_adv {q : Nat} {p : QueuePos} (h : p.index < 2 ^ q) :
    (p.adv q).pack q = (p.pack q + 1) % 2 ^ (q + 1) := by
  obtain ⟨index, wrap⟩ := p
  rw [Nat.pow_succ']
  simp only [QueuePos.adv, QueuePos.pack] at h ⊢
  by_cases hlast : index + 1 = 2 ^ q
  · cases wrap
    · simp [hlast, Nat.mod_eq_of_lt (show 2 ^ q < 2 * 2 ^ q by omega)]
    · simp [hlast, show index + 2 ^ q + 1 = 2 * 2 ^ q by omega]
  · have hmod : (index + 1) % 2 ^ q = index + 1 := Nat.mod_eq_of_lt (by omega)
    cases wrap
    · simp [hmod, Nat.mod_eq_of_lt (show index + 1 < 2 * 2 ^ q by omega)]
    · simp only [hmod, Nat.succ_ne_zero, if_true, if_false]
      rw [Nat.mod_eq_of_lt (by omega), Nat.add_right_comm]

/-- The advanced index field, for a shift that leaves room for the wrap bit (R163, R166). -/
theorem advancedField_toNat {q : Nat} (hq : q ≤ 19) (f : BitVec 20) :
    (advancedField q f).toNat = (f.toNat + 1) % 2 ^ (q + 1) := by
  have hlt := Nat.mod_lt (f.toNat + 1) (Nat.two_pow_pos (q + 1))
  have hle : 2 ^ (q + 1) ≤ 2 ^ 20 := Nat.pow_le_pow_right (by decide) (by omega)
  rw [advancedField, pack_adv (Nat.mod_lt _ (Nat.two_pow_pos q)), pack_queuePos, Nat.mod_add_mod, BitVec.toNat_ofNat,
    Nat.mod_eq_of_lt (by omega)]

/-- With legal parameters the command queue's shift leaves room for the wrap bit (R162, log 12). -/
theorem cmdqShift_le {cfg : Config} (D : Domain) (hc : cfg.wf = true) : D.cmdqShift cfg ≤ 19 := by
  have hmax : cfg.maxCmdqShift ≤ 19 := by simp_all [Config.wf]
  exact le_trans (Nat.min_le_right _ _) hmax

/-- A queue whose produce index is one past its consume index is not empty (R164, R166). -/
theorem queueEmpty_advancedField {q : Nat} (hq : q ≤ 19) (f : BitVec 20) :
    queueEmpty (queuePos q (advancedField q f)) (queuePos q f) = false := by
  rw [← Bool.not_eq_true, queueEmpty_iff, advancedField_toNat hq, Nat.mod_mod]
  intro h
  have one_eq_zero : 1 ≡ 0 [MOD 2 ^ (q + 1)] := Nat.ModEq.add_left_cancel' f.toNat h
  have := Nat.dvd_one.1 (Nat.modEq_zero_iff_dvd.1 one_eq_zero)
  have := Nat.two_pow_pos q
  omega

/-! ### Placed words (log 2) -/

/-- The words that decode: a command of 128 bits or an entry of 64 bits. -/
theorem decodeTableWord_eq_some {nbits w : Nat} {i : Instr} (h : decodeTableWord nbits w = some i) :
    (nbits = 128 ∧ decode .command (bytesOf cmdSize w) = .ok i)
      ∨ (nbits = 64 ∧ decode .pageTableEntry (bytesOf pteSize w) = .ok i) := by
  have ok_of_toOption : ∀ {x : Except DecodeError Instr}, x.toOption = some i → x = .ok i := by
    intro x hx
    cases x with
    | error e => cases hx
    | ok j => cases hx; rfl
  unfold decodeTableWord at h
  split at h
  next hn => exact .inl ⟨hn, ok_of_toOption h⟩
  next =>
    split at h
    next hn => exact .inr ⟨hn, ok_of_toOption h⟩
    next => cases h

/-- Without failing ranges no access fails (R96). -/
theorem memAborts_of_failing_nil {s : State} (h : s.failing = []) (a : Addr) (n : Nat) : s.memAborts a n = false := by
  simp [State.memAborts, failsAt, h]

/-- The bytes that were stored are fetched again. -/
theorem readBytes_writeBytes_of_length (m : Memory) (a : Addr) {bs : List Byte} {n : Nat} (h : bs.length = n)
    (hn : n ≤ 2 ^ 64) : Memory.readBytes (Memory.writeBytes m a bs) a n = bs := by
  subst h
  exact Memory.readBytes_writeBytes m a bs hn

/-! #### A placed command -/

@[simp] theorem State.placeCommand_cfg (s : State) (bs : List Byte) : (s.placeCommand bs).cfg = s.cfg := by
  simp [State.placeCommand]
@[simp] theorem State.placeCommand_phase (s : State) (bs : List Byte) : (s.placeCommand bs).phase = .draining := by
  simp [State.placeCommand]
@[simp] theorem State.placeCommand_cur (s : State) (bs : List Byte) : (s.placeCommand bs).cur = s.cur := by
  simp [State.placeCommand]
@[simp] theorem State.placeCommand_failing (s : State) (bs : List Byte) : (s.placeCommand bs).failing = [] := by
  simp [State.placeCommand]
@[simp] theorem State.placeCommand_mem (s : State) (bs : List Byte) :
    (s.placeCommand bs).mem = Memory.writeBytes s.mem s.commandAddr bs := by
  simp [State.placeCommand]
@[simp] theorem State.placeCommand_dom (s : State) (bs : List Byte) :
    (s.placeCommand bs).dom s.cur = { s.dom s.cur with
      cmdqProd := RegField.index.set (advancedField ((s.dom s.cur).cmdqShift s.cfg) (s.dom s.cur).cmdqRd)
        (s.dom s.cur).cmdqProd } := by
  simp [State.placeCommand]

/-- The next command is fetched where the bytes were placed: CMDQ_BASE and the consume index stay (R167). -/
@[simp] theorem State.placeCommand_commandAddr (s : State) (bs : List Byte) :
    (s.placeCommand bs).commandAddr = s.commandAddr := by
  simp only [State.commandAddr, State.placeCommand_cur, State.placeCommand_cfg, State.placeCommand_dom]
  rfl

/-- The queue with a placed command is not empty. -/
theorem State.placeCommand_not_empty {s : State} (hc : s.cfg.wf = true) (bs : List Byte) :
    ((s.placeCommand bs).dom s.cur).cmdqEmpty s.cfg = false := by
  have hq := cmdqShift_le (s.dom s.cur) hc
  have hwr : ((s.placeCommand bs).dom s.cur).cmdqWr
      = advancedField ((s.dom s.cur).cmdqShift s.cfg) (s.dom s.cur).cmdqRd := by
    rw [State.placeCommand_dom]
    exact Field.get_set_same _ _ _ (by decide)
  rw [Domain.cmdqEmpty, hwr, State.placeCommand_dom]
  exact queueEmpty_advancedField hq _

/-- The next step runs a placed command. -/
theorem step_placeCommand {s : State} {bs : List Byte} {i : Instr} (hc : s.cfg.wf = true) (hl : bs.length = cmdSize)
    (hd : decode .command bs = .ok i) : step (s.placeCommand bs) = exec i (s.placeCommand bs) := by
  have hread := readBytes_writeBytes_of_length s.mem s.commandAddr hl (by decide)
  refine step_of_queued_command (by simp) ?_ (memAborts_of_failing_nil (by simp) _ _) (by simpa [hread] using hd)
  simpa using State.placeCommand_not_empty hc bs

/-! #### A placed entry -/

/-- The walk of a placed entry has the half's own table and 4 KiB granules. -/
theorem State.openWalk_params (s : State) :
    s.openWalk.params = some (ttbr (selectsUpper s.walk.req.va) openCd, 12) := by
  cases h : selectsUpper s.walk.req.va <;>
    simp [Walk.params, State.openWalk, h, halfDisabled, granuleShift, openCd, Cd.zero, tg0Shift, tg1Shift]

/-- The next step runs a placed entry. -/
theorem step_placeEntry {s : State} {bs : List Byte} {i : Instr} (hl : bs.length = pteSize)
    (hd : decode .pageTableEntry bs = .ok i) : step (s.placeEntry bs) = exec i (s.placeEntry bs) := by
  have hread := readBytes_writeBytes_of_length s.mem s.openEntryAddr hl (by decide)
  exact step_of_walk_entry rfl s.openWalk_params (memAborts_of_failing_nil rfl _ _) (hread.symm ▸ hd)

/-- The next step runs the word that `withFetchWord` has placed (log 2). -/
theorem step_withFetchWord {s : State} {nbits w : Nat} {i : Instr} (hc : s.cfg.wf = true)
    (h : decodeTableWord nbits w = some i) : step (s.withFetchWord nbits w) = exec i (s.withFetchWord nbits w) := by
  rcases decodeTableWord_eq_some h with ⟨rfl, hd⟩ | ⟨rfl, hd⟩
  · exact step_placeCommand hc (length_bytesOf _ _) hd
  · exact step_placeEntry (length_bytesOf _ _) hd

end Sys2Proof.Machine
end

section
/-! The statements about guest memory and the top-level operations (20_memory.md). -/

namespace Sys2Proof.Machine

/-- Settles O10: the failure condition is `memAborts` unfolded; a failing fetch is `commandFailed` with `Abort`. -/
theorem failingCommandFetchIsAbort : Obligations.FailingCommandFetchIsAbort := by
  unfold Obligations.FailingCommandFetchIsAbort
  intro s D q base produce consume addr
  have haddr : s.commandAddr = addr := by
    rw [State.commandAddr, cmdAddr_eq, cmdqShift_eq]
  refine ⟨memAborts_iff s, fun hp hne ha => ⟨_, ?_, s.commandFailed_commandFails .abort⟩⟩
  have he : D.cmdqEmpty s.cfg = false := by
    rw [← Bool.not_eq_true, Domain.cmdqEmpty_iff]
    exact hne
  exact step_of_failing_command hp he (haddr ▸ ha)

/-- Settles O7: by the width of the word, and by the inputs of an idle state. -/
theorem stepRunsPlacedWord : Obligations.StepRunsPlacedWord := by
  unfold Obligations.StepRunsPlacedWord
  exact ⟨fun _ _ _ _ hc h => step_withFetchWord hc h,
    fun _ hp => ⟨step_of_idle_nil hp, fun _ _ => step_of_idle_cons hp⟩⟩

end Sys2Proof.Machine
end

section
/-! SUPPORT. The layouts of instructions; and what the translation routine does with a Stream Table Entry and a Context
Descriptor, in the words of the statements: a fault's state, the structures' addresses and fields as numbers, and the two
ways to find an STE. -/

namespace Sys2Proof.Machine

/-! ### Layouts (R113) -/

/-- The layout of every command fits its 16 bytes (R116 to R122). -/
theorem commandLayout_wf (i : Instr) : Layout.wf 128 (commandLayout i) = true := by
  cases i <;> rfl

/-- The layout of every entry fits its 8 bytes (R140 to R142). -/
theorem pteLayout_wf (i : Instr) : Layout.wf 64 (pteLayout i) = true := by
  cases i <;> rfl

/-! ### Faults of `Translate` (R199) -/

/-- Without a window the access gets its back-end's denial (R325, R332). -/
theorem State.finishAccess_none (s : State) (r : Request) :
    s.finishAccess r none = s.respond (Backend.denial r.backend) := by
  unfold State.finishAccess
  cases r.backend <;> rfl

/-- `Fault(k)` of `Translate` is the statements' `afterFault` (R199). -/
theorem State.translateFault_eq_afterFault (s : State) (r : Request) (k : FaultKind) (priv record : Bool) :
    s.translateFault r k priv record = s.afterFault r k priv record :=
  State.finishAccess_none _ _

/-! ### The fields of a 64-byte structure (R110, R111) -/

/-- A flag of a structure in memory is a bit of the little-endian number of its bytes. -/
theorem flag_readBytes (f : Field 1) (m : Memory) (a : Addr) :
    f.flag (BitVec.ofNat 512 (leNat (Memory.readBytes m a 64))) = (leNat (Memory.readBytes m a 64)).testBit f.lo := by
  rw [Field.flag_eq, ← BitVec.testBit_toNat, readBytes_toNat]

/-- A field of a structure in memory is that part of the little-endian number of its bytes. -/
theorem get_readBytes_toNat {w : Nat} (f : Field w) (m : Memory) (a : Addr) :
    (f.get (BitVec.ofNat 512 (leNat (Memory.readBytes m a 64)))).toNat
      = leNat (Memory.readBytes m a 64) / 2 ^ f.lo % 2 ^ w := by
  rw [Field.get_toNat, readBytes_toNat]

/-- The values of `Config` as numbers (R131). -/
theorem decodeSteConfig_eq (c : BitVec 3) :
    decodeSteConfig c = if c.toNat = 0b100 then .bypass else if c.toNat = 0b101 then .stage1
      else if c.toNat = 0b110 then .stage2 else if c.toNat = 0b111 then .both else .abort := by
  decide +revert

/-- The values of `PRIVCFG` as numbers (R132). -/
theorem decodePrivCfg_eq (c : BitVec 2) :
    decodePrivCfg c = if c.toNat = 0b10 then .unprivileged else if c.toNat = 0b11 then .privileged
      else .useIncoming := by
  decide +revert

/-- The configuration of an STE in memory (R130, R131). -/
theorem decodeSte_config (m : Memory) (a : Addr) :
    let config := leNat (Memory.readBytes m a 64) / 2 ^ 1 % 2 ^ 3
    (decodeSte (Memory.readBytes m a 64)).config =
      if config = 0b100 then .bypass else if config = 0b101 then .stage1 else if config = 0b110 then .stage2
      else if config = 0b111 then .both else .abort := by
  have number := get_readBytes_toNat SteField.config m a
  dsimp only
  rw [← number]
  exact decodeSteConfig_eq _

/-- The privilege configuration of an STE in memory (R130, R132). -/
theorem decodeSte_privCfg (m : Memory) (a : Addr) :
    let privCfg := leNat (Memory.readBytes m a 64) / 2 ^ 112 % 2 ^ 2
    (decodeSte (Memory.readBytes m a 64)).privCfg =
      if privCfg = 0b10 then .unprivileged else if privCfg = 0b11 then .privileged else .useIncoming := by
  have number := get_readBytes_toNat SteField.privCfg m a
  dsimp only
  rw [← number]
  exact decodePrivCfg_eq _

/-! ### Where the structures lie (R42, R130, R190) -/

/-- The address of the Context Descriptor as a number (R130). -/
theorem Ste.cdAddr_eq (e : Ste) : e.cdAddr = BitVec.ofNat 64 (e.s1ContextPtr.toNat * 64) := by
  apply BitVec.eq_of_toNat_eq
  simp [Ste.cdAddr, Nat.shiftLeft_eq]

/-- The address of a stream's STE as a number (R42, R190). -/
theorem Domain.steAddr_eq (D : Domain) (sid : StreamId) :
    D.steAddr sid = BitVec.ofNat 64 (D.strtabBase.toNat / 2 ^ 6 % 2 ^ 46 * 2 ^ 6 + 64 * sid.toNat) := by
  have base : D.strtabAddr = BitVec.ofNat 64 (D.strtabBase.toNat / 2 ^ 6 % 2 ^ 46 * 2 ^ 6) := by
    apply BitVec.eq_of_toNat_eq
    simp [Domain.strtabAddr, Nat.shiftLeft_eq, Field.get_toNat]
  have offset : (sid.setWidth 64 <<< 6 : Addr) = BitVec.ofNat 64 (64 * sid.toNat) := by
    apply BitVec.eq_of_toNat_eq
    simp [Nat.shiftLeft_eq, Nat.mul_comm]
  rw [Domain.steAddr, base, offset, ← BitVec.ofNat_add]

/-! ### The bounds and the format of the table (R43, R191) -/

theorem strtabLog2Size_toNat (x : BitVec 32) : (RegField.strtabLog2Size.get x).toNat = x.toNat % 2 ^ 6 := by
  simp [Field.get_toNat]

theorem strtabFmt_eq_zero_iff (x : BitVec 32) : RegField.strtabFmt.get x = 0 ↔ x.toNat / 2 ^ 16 % 2 ^ 2 = 0 := by
  rw [← BitVec.toNat_inj, Field.get_toNat]
  rfl

/-! ### `Translate` by the STE (R199 to R201) -/

/-- A Stage-1 stream: the CD's fetch, its validity, then the walk (R193, R199). -/
theorem State.translateStage1_eq (s : State) (r : Request) (ste : Ste) :
    s.translateStage1 r ste =
      if s.memAborts ste.cdAddr 64 = true then s.afterFault r .cdFetch (decide (ste.privCfg ≠ .unprivileged)) r.record
      else if (decodeCd (Memory.readBytes s.mem ste.cdAddr 64)).v = false then
        s.afterFault r .badCd (decide (ste.privCfg ≠ .unprivileged)) r.record
      else
        s.beginWalk r (decodeCd (Memory.readBytes s.mem ste.cdAddr 64)) (decide (ste.privCfg ≠ .unprivileged)) := by
  unfold State.translateStage1 cdSize
  rcases s.fetch_cases ste.cdAddr 64 with ⟨ha, e⟩ | ⟨ha, e⟩
  · simp only [e, ha, if_true, State.translateFault_eq_afterFault]
  · simp only [e, ha, Bool.false_eq_true, if_false, State.translateFault_eq_afterFault]
    cases (decodeCd (Memory.readBytes s.mem ste.cdAddr 64)).v <;> rfl

/-- A decoded STE, in the order of R199: the refused ones, then one branch for each configuration. -/
theorem State.translateSte_eq (s : State) (r : Request) (ste : Ste) :
    s.translateSte r ste =
      if ste.v = false ∨ ste.config = .stage2 ∨ ste.config = .both then
        s.afterFault r .badSte (decide (ste.privCfg ≠ .unprivileged)) r.record
      else if ste.config = .abort then s.respond (Backend.denial r.backend)
      else if ste.config = .bypass then s.finishAccess r (some bypassWindow)
      else s.translateStage1 r ste := by
  unfold State.translateSte
  cases ste.v with
  | false => simp [State.translateFault_eq_afterFault]
  | true => cases ste.config <;> simp [State.translateFault_eq_afterFault, State.finishAccess_none]

/-! ### `LookupSte` (R191, R198) -/

/-- A cached STE is used as it is (R191). -/
theorem State.beginTranslate_of_cached {s : State} {r : Request} {ste : Ste}
    (h : Assoc.get? (s.dom r.sec).steCache r.sid.toNat = some ste) : s.beginTranslate r = s.translateSte r ste := by
  simp only [State.beginTranslate, State.lookupSte, h]

/-- The state with an STE put into a Domain's cache (R191). -/
def State.cacheSte (s : State) (d : SecurityState) (sid : StreamId) (ste : Ste) : State :=
  s.setDom d { s.dom d with steCache := Assoc.set (s.dom d).steCache sid.toNat ste }

/-- An STE just cached is found in the cache. -/
theorem State.beginTranslate_cacheSte (s : State) (r : Request) (ste : Ste) :
    (s.cacheSte r.sec r.sid ste).beginTranslate r = (s.cacheSte r.sec r.sid ste).translateSte r ste :=
  State.beginTranslate_of_cached (by simp [State.cacheSte])

/-- The lookup of an STE that is not cached: the bounds, the format and the fetch can fail; else the STE is cached
(R191, R198). -/
theorem State.lookupSte_of_uncached {s : State} {d : SecurityState} {sid : StreamId}
    (h : Assoc.get? (s.dom d).steCache sid.toNat = none) :
    s.lookupSte d sid =
      if 2 ^ s.cfg.sidBits ≤ sid.toNat ∨ 2 ^ ((s.dom d).strtabBaseCfg.toNat % 2 ^ 6) ≤ sid.toNat
          ∨ (s.dom d).strtabBaseCfg.toNat / 2 ^ 16 % 2 ^ 2 ≠ 0 then .failed .badStreamId
      else if s.memAborts ((s.dom d).steAddr sid) 64 = true then .failed .steFetch
      else .found (decodeSte (Memory.readBytes s.mem ((s.dom d).steAddr sid) 64))
        (s.cacheSte d sid (decodeSte (Memory.readBytes s.mem ((s.dom d).steAddr sid) 64))) := by
  simp only [State.lookupSte, h, strtabLog2Size_toNat, ne_eq, strtabFmt_eq_zero_iff, Bool.or_eq_true,
    decide_eq_true_eq, steSize]
  by_cases outside : 2 ^ s.cfg.sidBits ≤ sid.toNat ∨ 2 ^ ((s.dom d).strtabBaseCfg.toNat % 2 ^ 6) ≤ sid.toNat
  · rw [if_pos outside, if_pos (or_assoc.1 (.inl outside))]
  · by_cases linear : (s.dom d).strtabBaseCfg.toNat / 2 ^ 16 % 2 ^ 2 = 0
    · rw [if_neg outside, if_neg (not_not_intro linear), if_neg fun hor => (or_assoc.2 hor).elim outside (· linear)]
      rcases s.fetch_cases ((s.dom d).steAddr sid) 64 with ⟨ha, e⟩ | ⟨ha, e⟩
      · simp only [ha, e, if_true]
      · simp only [ha, e, Bool.false_eq_true, if_false, State.cacheSte]
    · rw [if_neg outside, if_pos linear, if_pos (.inr (.inr linear))]

/-- A stream whose STE is not cached: a failed lookup is a fault; else the STE is cached and then used (R191, R198). -/
theorem State.beginTranslate_of_uncached {s : State} {r : Request}
    (h : Assoc.get? (s.dom r.sec).steCache r.sid.toNat = none) :
    s.beginTranslate r =
      if 2 ^ s.cfg.sidBits ≤ r.sid.toNat ∨ 2 ^ ((s.dom r.sec).strtabBaseCfg.toNat % 2 ^ 6) ≤ r.sid.toNat
          ∨ (s.dom r.sec).strtabBaseCfg.toNat / 2 ^ 16 % 2 ^ 2 ≠ 0 then
        s.afterFault r .badStreamId true r.record
      else if s.memAborts ((s.dom r.sec).steAddr r.sid) 64 = true then s.afterFault r .steFetch true r.record
      else
        (s.cacheSte r.sec r.sid
          (decodeSte (Memory.readBytes s.mem ((s.dom r.sec).steAddr r.sid) 64))).beginTranslate r := by
  rw [State.beginTranslate_cacheSte, State.beginTranslate, State.lookupSte_of_uncached h]
  split_ifs
  case pos | pos => exact State.translateFault_eq_afterFault ..
  case neg => rfl

end Sys2Proof.Machine
end

section
/-! The statements about the layouts of the structures in memory, the Stream Table Entry and the Context Descriptor
(30_encoding.md). -/

namespace Sys2Proof.Machine

/-- Settles O32: the STE decides by `translateSte_eq`, and a CD's field is its part of the 64 bytes' number. -/
theorem cachedSteDecidesTheTranslation : Obligations.CachedSteDecidesTheTranslation := by
  unfold Obligations.CachedSteDecidesTheTranslation
  intro s m r ste h u cdAddr cd bits priv
  have hu : Assoc.get? (u.dom r.sec).steCache r.sid.toNat = some ste := by
    cases hd : r.sec <;> simpa [hd] using h
  refine ⟨?translation, flag_readBytes _ _ _, flag_readBytes _ _ _, flag_readBytes _ _ _, flag_readBytes _ _ _,
    get_readBytes_toNat _ _ _, get_readBytes_toNat _ _ _, flag_readBytes _ _ _, get_readBytes_toNat _ _ _,
    get_readBytes_toNat _ _ _⟩
  rw [State.beginTranslate_of_cached hu, State.translateSte_eq, State.translateStage1_eq, Ste.cdAddr_eq]
  rfl

/-- Settles O33: the lookup is `beginTranslate_of_uncached`, and an STE's field is its part of the 64 bytes' number. -/
theorem uncachedSteIsFetchedAndCached : Obligations.UncachedSteIsFetchedAndCached := by
  unfold Obligations.UncachedSteIsFetchedAndCached
  intro s r h D base addr ste bits config privCfg
  refine ⟨?lookup, flag_readBytes _ _ _, get_readBytes_toNat _ _ _, decodeSte_config _ _, decodeSte_privCfg _ _⟩
  rw [State.beginTranslate_of_uncached h, Domain.steAddr_eq]
  rfl

/-- Settles O3: by the constructors of the instructions, each with a closed table; the other structures have one each. -/
theorem layoutFieldsFitAndDoNotOverlap : Obligations.LayoutFieldsFitAndDoNotOverlap := by
  unfold Obligations.LayoutFieldsFitAndDoNotOverlap
  exact ⟨fun i _ => commandLayout_wf i, fun i _ => pteLayout_wf i, by decide, by decide, by decide⟩

end Sys2Proof.Machine
end

section
/-! SUPPORT. The positions of a queue as numbers modulo twice its capacity: a position below the capacity is known by its
packed value, and `n` advances add `n` to it. Unlike the facts on index fields, these hold for a queue of any size. -/

namespace Sys2Proof.Machine

/-- The index that a field holds is below the capacity (R163). -/
theorem index_queuePos_lt (q : Nat) (f : BitVec 20) : (queuePos q f).index < 2 ^ q :=
  Nat.mod_lt _ (Nat.two_pow_pos q)

/-- Advancing leaves the index below the capacity (R166). -/
theorem index_adv_lt (q : Nat) (p : QueuePos) : (p.adv q).index < 2 ^ q :=
  Nat.mod_lt _ (Nat.two_pow_pos q)

theorem index_iterate_adv_lt {q : Nat} {p : QueuePos} (h : p.index < 2 ^ q) (n : Nat) :
    ((QueuePos.adv q)^[n] p).index < 2 ^ q := by
  cases n with
  | zero => exact h
  | succ n =>
    rw [Function.iterate_succ_apply']
    exact index_adv_lt q _

theorem pack_lt {q : Nat} {p : QueuePos} (h : p.index < 2 ^ q) : p.pack q < 2 ^ (q + 1) := by
  rw [Nat.pow_succ', QueuePos.pack]
  split <;> omega

/-- A position below the capacity is known by its packed value (R163). -/
theorem eq_of_pack_modEq {q : Nat} {p c : QueuePos} (hp : p.index < 2 ^ q) (hc : c.index < 2 ^ q)
    (h : p.pack q ≡ c.pack q [MOD 2 ^ (q + 1)]) : p = c := by
  have same := h.eq_of_lt_of_lt (pack_lt hp) (pack_lt hc)
  obtain ⟨i, v⟩ := p
  obtain ⟨j, w⟩ := c
  simp only [QueuePos.pack] at same hp hc
  have wraps : v = w := by
    cases v <;> cases w <;> simp at same ⊢ <;> omega
  subst wraps
  rw [Nat.add_right_cancel same]

/-- Each of `n` advances counts the packed value up by one (R166). -/
theorem pack_iterate_adv {q : Nat} {p : QueuePos} (h : p.index < 2 ^ q) (n : Nat) :
    ((QueuePos.adv q)^[n] p).pack q ≡ p.pack q + n [MOD 2 ^ (q + 1)] := by
  induction n with
  | zero => rfl
  | succ n ih =>
    rw [Function.iterate_succ_apply', pack_adv (index_iterate_adv_lt h n)]
    exact (Nat.mod_modEq _ _).trans (ih.add_right 1)

/-- Two advanced positions agree when the numbers of advances agree modulo twice the capacity. -/
theorem iterate_adv_eq_iff {q : Nat} {p : QueuePos} (h : p.index < 2 ^ q) (n m : Nat) :
    (QueuePos.adv q)^[n] p = (QueuePos.adv q)^[m] p ↔ n ≡ m [MOD 2 ^ (q + 1)] := by
  have hn := pack_iterate_adv h n
  have hm := pack_iterate_adv h m
  constructor
  · intro same
    rw [same] at hn
    exact (hn.symm.trans hm).add_left_cancel'
  · intro counts
    exact eq_of_pack_modEq (index_iterate_adv_lt h n) (index_iterate_adv_lt h m)
      (hn.trans ((counts.add_left _).trans hm.symm))

/-- As many advances as the capacity return to the same index with the other wrap bit (R163, R166). -/
theorem iterate_adv_capacity {q : Nat} {p : QueuePos} (h : p.index < 2 ^ q) :
    (QueuePos.adv q)^[2 ^ q] p = { p with wrap := !p.wrap } := by
  have flipped : ({ p with wrap := !p.wrap } : QueuePos).pack q ≡ p.pack q + 2 ^ q [MOD 2 ^ (q + 1)] := by
    rw [QueuePos.pack, QueuePos.pack, Nat.pow_succ']
    cases p.wrap with
    | false => rfl
    | true => simp [Nat.ModEq, Nat.add_assoc, ← Nat.two_mul]
  exact eq_of_pack_modEq (index_iterate_adv_lt h _) h ((pack_iterate_adv h _).trans flipped.symm)

/-- A queue is empty when its positions are the same (R164). -/
theorem queueEmpty_iff_eq (p c : QueuePos) : queueEmpty p c = true ↔ p = c := by
  obtain ⟨i, v⟩ := p
  obtain ⟨j, w⟩ := c
  simp [queueEmpty]

/-- A queue is full when its positions differ in the wrap bit alone (R165). -/
theorem queueFull_iff_eq (p c : QueuePos) : queueFull p c = true ↔ p = { c with wrap := !c.wrap } := by
  obtain ⟨i, v⟩ := p
  obtain ⟨j, w⟩ := c
  simp [queueFull, Bool.eq_not]

/-- A queue is full when the producer stands one capacity of advances past the consumer (R165, R166). -/
theorem queueFull_iff_iterate_adv {q : Nat} {c : QueuePos} (h : c.index < 2 ^ q) (p : QueuePos) :
    queueFull p c = true ↔ p = (QueuePos.adv q)^[2 ^ q] c := by
  rw [queueFull_iff_eq, iterate_adv_capacity h]

/-- Numbers less than the modulus apart are congruent only if they are equal. -/
theorem modEq_iff_eq_of_lt_add {k a b : Nat} (hab : a < b + k) (hba : b < a + k) : a ≡ b [MOD k] ↔ a = b :=
  ⟨fun h => h.eq_of_abs_lt (abs_lt.2 ⟨by omega, by omega⟩), fun h => h ▸ rfl⟩

end Sys2Proof.Machine
end

section
/-! The statements about the queues' indices (40_queue_protocol.md). -/

namespace Sys2Proof.Machine

/-- Settles O39: `pack_adv`, for the index that a field holds is below the capacity. -/
theorem advanceIncrementsThePackedValue : Obligations.AdvanceIncrementsThePackedValue := by
  unfold Obligations.AdvanceIncrementsThePackedValue
  intro q f
  exact pack_adv (index_queuePos_lt q f)

/-- Settles O40: empty and full need opposite wrap bits; and advanced positions compare as their numbers of advances
modulo `2^(q+1)`, which the bounds on what is held make an equality. -/
theorem fullExactlyAfterCapacityEnqueues : Obligations.FullExactlyAfterCapacityEnqueues := by
  unfold Obligations.FullExactlyAfterCapacityEnqueues
  refine ⟨?never_both, fun q n m f hmn hnm => ?counts⟩
  case never_both =>
    rintro p c ⟨hempty, hfull⟩
    obtain rfl := (queueEmpty_iff_eq p c).1 hempty
    simp [queueFull] at hfull
  case counts =>
    have start := index_queuePos_lt q f
    have capacity := Nat.two_pow_pos q
    have lap : 2 ^ (q + 1) = 2 ^ q + 2 ^ q := by rw [Nat.pow_succ, Nat.mul_two]
    constructor
    · rw [queueEmpty_iff_eq, iterate_adv_eq_iff start]
      exact modEq_iff_eq_of_lt_add (by omega) (by omega)
    · rw [queueFull_iff_iterate_adv (index_iterate_adv_lt start m), ← Function.iterate_add_apply,
        iterate_adv_eq_iff start, Nat.add_comm (2 ^ q) m]
      exact modEq_iff_eq_of_lt_add (by omega) (by omega)

end Sys2Proof.Machine
end

section
/-! SUPPORT. How a walk ends: a failed walk in the words of the statements (R199, R228), an Invalid entry, and the two
faults of a pass that executes no entry. -/

namespace Sys2Proof.Machine

/-- A walk that answers no window leaves the statements' state after a failed walk (R199, R309). -/
theorem State.finishWalk_noWindow (s : State) (k : FaultKind) :
    s.finishWalk (.noWindow k) = s.afterFailedWalk k :=
  State.translateFault_eq_afterFault ..

/-! ### Invalid entries (R227) -/

theorem exec_pteInvalid00 (s : State) : exec .pteInvalid00 s = .next (s.runEntry fun _ => invalidOutcome) := rfl
theorem exec_pteInvalid10 (s : State) : exec .pteInvalid10 s = .next (s.runEntry fun _ => invalidOutcome) := rfl

/-- An Invalid entry and parameters that fail give the same fault (R212, R227). -/
theorem State.runEntry_invalidOutcome (s : State) :
    (s.runEntry fun _ => invalidOutcome) = s.afterFailedWalk .translation := by
  rw [← State.finishWalk_noWindow]
  rcases s.runEntry_cases fun _ => invalidOutcome with
    ⟨_, noParams⟩ | ⟨_, _, r, _, done, ends⟩ | ⟨_, _, next, _, descends, _⟩
  · exact noParams
  · obtain rfl : WalkResult.noWindow .translation = r := EntryOutcome.done.inj done
    exact ends
  · cases descends

/-! ### A pass of the walk that executes no entry (R212, R395) -/

/-- Parameters that fail end the walk before any entry is read (R212). -/
theorem step_of_walk_without_params {s : State} (hp : s.phase = .walking) (hw : s.walk.params = none) :
    step s = .next (s.afterFailedWalk .translation) := by
  rw [step_of_walking hp, ← State.finishWalk_noWindow]
  simp only [stepWalk, hw]

/-- A failing fetch of the entry that the parameters select ends the walk (R395). -/
theorem step_of_failing_walk_entry {s : State} {base : Addr} {p : Nat} (hp : s.phase = .walking)
    (hw : s.walk.params = some (base, p)) (ha : s.memAborts (s.walk.entryAddr s.cfg base p) pteSize = true) :
    step s = .next (s.afterFailedWalk .walkFetch) := by
  have hf : s.fetch (s.walk.entryAddr s.cfg base p) pteSize = none := by simp [State.fetch, ha]
  rw [step_of_walking hp, ← State.finishWalk_noWindow]
  simp only [stepWalk, hw, hf]

/-- A half that is neither disabled nor has a reserved granule is enabled with a legal one, in both halves (R214, R215). -/
theorem half_usable_of_not_refused {upper : Bool} {cd : Cd}
    (h : ¬if upper then cd.epd1 = true ∨ cd.tg1 = 0b00#2 else cd.epd0 = true ∨ cd.tg0 = 0b11#2) :
    if upper then cd.epd1 = false ∧ cd.tg1 ≠ 0b00#2 else cd.epd0 = false ∧ cd.tg0 ≠ 0b11#2 := by
  cases upper <;> simpa using h

end Sys2Proof.Machine
end

section
/-! The statements about the steps of a walk: its parameters, the entry that a step runs, and the walks that fail
(42_page_table_walker.md). -/

namespace Sys2Proof.Machine

/-- Settles O6: the parameters are `params_eq_some`, and the step is the entry's execution at its address in numbers. -/
theorem stepRunsWalkEntry : Obligations.StepRunsWalkEntry := by
  unfold Obligations.StepRunsWalkEntry
  intro s va cd upper base p index addr usable
  have params : s.walk.params = some (base, p) := Walk.params_eq_some usable
  have entryAddr : s.walk.entryAddr s.cfg base p = addr := Walk.entryAddr_eq ..
  exact ⟨params, fun _ hp ha hd => step_of_walk_entry hp params (entryAddr ▸ ha) (entryAddr ▸ hd)⟩

/-- Settles O18: both forms of an Invalid entry run with `invalidOutcome`, which fails the walk. -/
theorem invalidEntryFailsTheWalk : Obligations.InvalidEntryFailsTheWalk := by
  unfold Obligations.InvalidEntryFailsTheWalk
  intro s
  rw [exec_pteInvalid00, exec_pteInvalid10, State.runEntry_invalidOutcome]
  exact ⟨rfl, rfl⟩

/-- Settles O22: a refused half has no parameters; any other has those of O6, and then the entry's fetch fails. -/
theorem disabledHalfOrReservedGranuleFailsTheWalk : Obligations.DisabledHalfOrReservedGranuleFailsTheWalk := by
  unfold Obligations.DisabledHalfOrReservedGranuleFailsTheWalk
  intro s va cd upper base p index addr refused
  constructor
  · intro hr
    have noParams : s.walk.params = none := Walk.params_eq_none hr
    exact ⟨noParams, fun hp => step_of_walk_without_params hp noParams⟩
  · intro hr hp ha
    have params : s.walk.params = some (base, p) := Walk.params_eq_some (half_usable_of_not_refused hr)
    have entryAddr : s.walk.entryAddr s.cfg base p = addr := Walk.entryAddr_eq ..
    exact step_of_failing_walk_entry hp params (entryAddr ▸ ha)

end Sys2Proof.Machine
end

section
/-! SUPPORT. What a command leaves and changes when it succeeds (R252, R253, R255), in the words of the statements: its
effect is on the two caches, and advancing the consume index after it meets the frame `CommandSucceeds`. -/

namespace Sys2Proof.Machine

/-! ### Advancing the consume index (R166, R168) -/

/-- The consume index of an advanced CMDQ_CONS, for a shift that leaves room for the wrap bit. -/
theorem Domain.advanceRd_cmdqRd {cfg : Config} (D : Domain) (hc : cfg.wf = true) :
    (D.advanceRd cfg).cmdqRd.toNat = (D.cmdqRd.toNat + 1) % 2 ^ (D.cmdqShift cfg + 1) := by
  rw [Domain.cmdqRd, Domain.advanceRd_cmdqCons, Field.get_set_same _ _ _ (by decide),
    advancedField_toNat (cmdqShift_le D hc)]

/-- A Domain whose CMDQ_CONS is what `AdvanceConsumerIndex` leaves has advanced as the statements say (R166, R168). -/
theorem Domain.consAdvanced_of_cmdqCons {cfg : Config} {D D' : Domain} (hc : cfg.wf = true)
    (h : D'.cmdqCons = (if D.cmdqEmpty cfg then D else D.advanceRd cfg).cmdqCons) : D.ConsAdvanced cfg D' := by
  have empty_iff := D.cmdqEmpty_iff cfg
  unfold Domain.ConsAdvanced
  dsimp only
  rw [h]
  split
  next he => exact ⟨rfl, (if_pos (empty_iff.1 he)).symm⟩
  next he =>
    refine ⟨Field.set_and_of_disjoint _ _ _ (by decide), ?_⟩
    rw [if_neg (mt empty_iff.2 he), ← index_toNat, ← index_toNat, ← cmdqShift_eq]
    exact D.advanceRd_cmdqRd hc

/-! ### Effects on the caches (R262, R263, R277) -/

/-- The state with the executing Domain's STE cache and the stream controllers replaced: all that the effect of a
command reaches. -/
def State.withCaches (s : State) (stes : List (Nat × Ste)) (ctls : List (Nat × Controller)) : State :=
  { s.setDom s.cur { s.dom s.cur with steCache := stes } with ctls := ctls }

@[simp] theorem State.withCaches_dom_cur (s : State) (stes : List (Nat × Ste)) (ctls : List (Nat × Controller)) :
    (s.withCaches stes ctls).dom s.cur = { s.dom s.cur with steCache := stes } :=
  State.setDom_dom_same ..

@[simp] theorem State.withCaches_cfg (s : State) (stes : List (Nat × Ste)) (ctls : List (Nat × Controller)) :
    (s.withCaches stes ctls).cfg = s.cfg :=
  State.setDom_cfg ..

/-- A command without an effect leaves the caches as they are. -/
theorem State.eq_withCaches_self (s : State) : s = s.withCaches (s.dom s.cur).steCache s.ctls := by
  unfold State.withCaches
  cases s.cur <;> rfl

/-- The removal of cached STEs, as an effect of a command. -/
theorem State.eraseStes_cur_eq_withCaches (s : State) (p : Nat → Bool) :
    s.eraseStes s.cur p = s.withCaches (Assoc.eraseIf p (s.dom s.cur).steCache) s.ctls := by
  unfold State.eraseStes State.withCaches
  cases s.cur <;> rfl

/-- The invalidation of the executing Domain's windows, as an effect of a command. -/
theorem State.invalidateDomain_eq_withCaches (s : State) (d : SecurityState) (a : Option Addr) :
    s.invalidateDomain d a = s.withCaches (s.dom s.cur).steCache (s.invalidateDomain d a).ctls := by
  unfold State.withCaches
  cases s.cur <;> rfl

/-- The effect of every command is on the caches alone. -/
theorem commandEffect_eq_withCaches (i : Instr) (s : State) :
    ∃ stes ctls, commandEffect i s = s.withCaches stes ctls := by
  rcases commandEffect_cases i with h | ⟨p, h⟩ | ⟨a, h⟩ <;> rw [h]
  · exact ⟨_, _, s.eq_withCaches_self⟩
  · exact ⟨_, _, s.eraseStes_cur_eq_withCaches p⟩
  · exact ⟨_, _, s.invalidateDomain_eq_withCaches s.cur a⟩

/-! ### A command that succeeds (R255) -/

/-- The executing Domain after an effect on the caches and the advance, which does not look at the caches. -/
theorem State.withCaches_advanceConsumer_dom_cur (s : State) (stes : List (Nat × Ste))
    (ctls : List (Nat × Controller)) :
    ((s.withCaches stes ctls).advanceConsumer s.cur).dom s.cur =
      { (if (s.dom s.cur).cmdqEmpty s.cfg then s.dom s.cur else (s.dom s.cur).advanceRd s.cfg) with
        steCache := stes } := by
  rw [State.advanceConsumer_eq, State.setDom_dom_same, State.withCaches_dom_cur, State.withCaches_cfg]
  change (if (s.dom s.cur).cmdqEmpty s.cfg then _ else _) = _
  split <;> rfl

/-- An effect on the caches followed by the advance of the consume index meets the statements' frame. -/
theorem State.withCaches_advanceConsumer_commandSucceeds {s : State} (hc : s.cfg.wf = true) (stes : List (Nat × Ste))
    (ctls : List (Nat × Controller)) : s.CommandSucceeds ((s.withCaches stes ctls).advanceConsumer s.cur) := by
  unfold State.CommandSucceeds
  rw [State.withCaches_advanceConsumer_dom_cur]
  refine ⟨?rest, fun _ => ?mem, ?phase, ?response, fun d hd => ?others, ?domain, Domain.consAdvanced_of_cmdqCons hc rfl⟩
  case rest => simp [State.SameRest, State.advanceConsumer_eq, State.withCaches]
  case mem => simp [State.advanceConsumer_eq, State.withCaches]
  case phase => simp [State.advanceConsumer_eq, State.withCaches]
  case response => simp [State.advanceConsumer_eq, State.withCaches]
  case others =>
    rw [State.advanceConsumer_eq, State.setDom_dom_other _ _ hd]
    exact State.setDom_dom_other s _ hd
  case domain => split <;> rfl

/-- A command whose tag is compatible and whose effect is on the caches succeeds, and leaves the caches that its effect
gave them (R252). -/
theorem State.runCommand_succeeds {s : State} {tag : Option SecurityState} {effect : State → State}
    {stes : List (Nat × Ste)} {ctls : List (Nat × Controller)} (hc : s.cfg.wf = true)
    (htag : secCompatible s.cfg s.cur tag = true) (he : effect s = s.withCaches stes ctls) :
    s.CommandSucceeds (s.runCommand tag effect) ∧ ((s.runCommand tag effect).dom s.cur).steCache = stes
      ∧ (s.runCommand tag effect).ctls = ctls := by
  have hrun : s.runCommand tag effect = (s.withCaches stes ctls).advanceConsumer s.cur := by
    rw [State.runCommand, if_pos htag, he]
  rw [hrun]
  refine ⟨State.withCaches_advanceConsumer_commandSucceeds hc stes ctls, ?cache, ?ctls⟩
  case cache => rw [State.withCaches_advanceConsumer_dom_cur]
  case ctls => simp [State.advanceConsumer_eq, State.withCaches]

/-- A command without a tag and without an effect changes the consume index alone (R279, R283). -/
theorem State.runCommand_nop_succeeds {s : State} (hc : s.cfg.wf = true) :
    s.CommandSucceeds (s.runCommand none fun t => t)
      ∧ ((s.runCommand none fun t => t).dom s.cur).steCache = (s.dom s.cur).steCache
      ∧ (s.runCommand none fun t => t).ctls = s.ctls :=
  State.runCommand_succeeds hc rfl s.eq_withCaches_self

/-! ### The security tag (R253) -/

theorem secCompatible_some_iff (cfg : Config) (d tag : SecurityState) :
    secCompatible cfg d (some tag) = true ↔ (d, tag) ∈ cfg.secCompat := by
  simp [secCompatible]

/-- A command with an incompatible tag fails with `Illegal` (R253, R257). -/
theorem State.runCommand_incompatible {s : State} {tag : SecurityState} (effect : State → State)
    (h : (s.cur, tag) ∉ s.cfg.secCompat) : s.CommandFails (s.runCommand (some tag) effect) 1#7 := by
  rw [State.runCommand, if_neg (mt (secCompatible_some_iff ..).1 h)]
  exact s.commandFailed_commandFails .illegal

/-- A tagged removal of the STEs that `p` picks, with a compatible and an incompatible tag (R253, R262, R263). -/
theorem State.runCommand_eraseStes {s : State} (ssec : Bool) (p : Nat → Bool) (hc : s.cfg.wf = true) :
    let t := s.runCommand (some (securityTag ssec)) fun u => u.eraseStes u.cur p
    if (s.cur, securityTag ssec) ∈ s.cfg.secCompat then
      s.CommandSucceeds t ∧ t.ctls = s.ctls
        ∧ ∀ k, Assoc.get? (t.dom s.cur).steCache k = if p k then none else Assoc.get? (s.dom s.cur).steCache k
    else s.CommandFails t 1#7 := by
  intro t
  split
  next htag =>
    obtain ⟨succeeds, hcache, hctls⟩ : s.CommandSucceeds t ∧ (t.dom s.cur).steCache = _ ∧ t.ctls = _ :=
      State.runCommand_succeeds hc ((secCompatible_some_iff ..).2 htag) (s.eraseStes_cur_eq_withCaches p)
    exact ⟨succeeds, hctls, fun k => hcache ▸ Assoc.get?_eraseIf p _ k⟩
  next htag => exact State.runCommand_incompatible _ htag

end Sys2Proof.Machine
end

section
/-! SUPPORT. The passes of the drain (R252): the head of the queue in numbers, the pass by what the peek finds, and the
number of commands that the queue holds, which every pass that does not end the drain counts down. -/

namespace Sys2Proof.Machine

/-! ### The head of the queue (R161 to R164) -/

/-- The head's address in numbers. -/
theorem State.commandAddr_eq (s : State) :
    let D := s.dom s.cur
    let q := min (D.cmdqBase.toNat % 2 ^ 5) s.cfg.maxCmdqShift
    let base := D.cmdqBase.toNat / 2 ^ 5 % 2 ^ 47 * 2 ^ 5 / 2 ^ (q + 4) * 2 ^ (q + 4)
    s.commandAddr = BitVec.ofNat 64 (base + D.cmdqCons.toNat % 2 ^ 20 % 2 ^ q * 16) := by
  dsimp only
  rw [State.commandAddr, cmdAddr_eq, cmdqShift_eq]

/-- A queue whose indices differ modulo twice its capacity is not empty. -/
theorem Domain.cmdqEmpty_eq_false {cfg : Config} {D : Domain}
    (h : D.cmdqProd.toNat % 2 ^ 20 % 2 ^ (min (D.cmdqBase.toNat % 2 ^ 5) cfg.maxCmdqShift + 1)
      ≠ D.cmdqCons.toNat % 2 ^ 20 % 2 ^ (min (D.cmdqBase.toNat % 2 ^ 5) cfg.maxCmdqShift + 1)) :
    D.cmdqEmpty cfg = false := by
  rw [← Bool.not_eq_true, Domain.cmdqEmpty_iff]
  exact h

/-! ### A pass by what the peek finds (R167, R252, R278, R283) -/

/-- On an empty queue the drain ends. -/
theorem step_of_empty_queue {s : State} (hp : s.phase = .draining) (he : (s.dom s.cur).cmdqEmpty s.cfg = true) :
    step s = .next s.endDrain := by
  have hpeek : s.tryPeek s.cur = .empty := by simp [State.tryPeek, he]
  rw [step_of_draining hp, stepDrain, hpeek]

/-- Bytes at the head of the queue that decode to no command. -/
theorem step_of_undecodable_command {s : State} {e : DecodeError} (hp : s.phase = .draining)
    (he : (s.dom s.cur).cmdqEmpty s.cfg = false) (ha : s.memAborts s.commandAddr cmdSize = false)
    (hd : decode .command (Memory.readBytes s.mem s.commandAddr cmdSize) = .error e) :
    step s = .next (s.runUnrecognised e) := by
  have hpeek : s.tryPeek s.cur = .bytes (Memory.readBytes s.mem s.commandAddr cmdSize) := by
    rw [State.commandAddr] at ha ⊢
    simp [State.tryPeek, he, State.fetch, ha]
  simp only [step_of_draining hp, stepDrain, hpeek, hd]

/-- An opcode of `EXTRA_NOP_OPCODES` runs as a command without a tag and without an effect (R283). -/
theorem State.runUnrecognised_of_mem {s : State} {op : Byte} (h : op ∈ s.cfg.extraNopOpcodes) :
    s.runUnrecognised (.unrecognisedOpcode op) = s.runCommand none fun t => t := by
  simp [State.runUnrecognised, h]

/-- Every other unrecognised opcode fails with `Illegal` (R278). -/
theorem State.runUnrecognised_of_not_mem {s : State} {op : Byte} (h : op ∉ s.cfg.extraNopOpcodes) :
    s.runUnrecognised (.unrecognisedOpcode op) = s.commandFailed s.cur .illegal := by
  simp [State.runUnrecognised, h]

/-! ### A pass that does not end the drain -/

/-- The decoder of commands gives commands only (R114, R115). -/
theorem format_of_decode_command {bs : List Byte} {i : Instr} (h : decode .command bs = .ok i) :
    i.format = .command := by
  have formats : ∀ e ∈ commandTable, ∀ x, (e.2 x).format = .command := by simp [commandTable, Instr.format]
  unfold decode at h
  split at h
  next =>
    simp only [decodeCommandWord] at h
    split at h
    next read hread =>
      obtain ⟨_, _, hmem, -⟩ := List.lookup_eq_some_iff.1 hread
      cases h
      exact formats _ (hmem ▸ List.mem_append_cons_self) _
    next => cases h
  next => cases h

/-- A command whose effect is on the caches succeeds, or ends the drain. -/
theorem State.runCommand_succeeds_or_idle {s : State} (tag : Option SecurityState) {effect : State → State}
    {stes : List (Nat × Ste)} {ctls : List (Nat × Controller)} (hc : s.cfg.wf = true)
    (he : effect s = s.withCaches stes ctls) :
    s.CommandSucceeds (s.runCommand tag effect) ∨ (s.runCommand tag effect).phase = .idle := by
  rcases s.runCommand_cases tag effect with ⟨htag, -⟩ | ⟨-, failed⟩
  · exact .inl (State.runCommand_succeeds hc htag he).1
  · exact .inr (failed ▸ rfl)

/-- Bytes that decode to no command run as a command that succeeds, or end the drain. -/
theorem State.runUnrecognised_succeeds_or_idle {s : State} (e : DecodeError) (hc : s.cfg.wf = true) :
    s.CommandSucceeds (s.runUnrecognised e) ∨ (s.runUnrecognised e).phase = .idle := by
  cases e with
  | wrongLength => exact .inr rfl
  | unrecognisedOpcode op =>
    by_cases h : op ∈ s.cfg.extraNopOpcodes
    · exact .inl (State.runUnrecognised_of_mem h ▸ (State.runCommand_nop_succeeds hc).1)
    · exact .inr (State.runUnrecognised_of_not_mem h ▸ rfl)

/-- Everything a pass of the drain can come to: the drain is over, or the command of a queue that is not empty has
succeeded (R252). -/
theorem step_of_draining_cases {s : State} (hc : s.cfg.wf = true) (hp : s.phase = .draining) :
    ∃ t, step s = .next t ∧ (t.phase = .idle ∨ (s.dom s.cur).cmdqEmpty s.cfg = false ∧ s.CommandSucceeds t) := by
  cases he : (s.dom s.cur).cmdqEmpty s.cfg with
  | true => exact ⟨_, step_of_empty_queue hp he, .inl rfl⟩
  | false =>
    cases ha : s.memAborts s.commandAddr cmdSize with
    | true => exact ⟨_, step_of_failing_command hp he ha, .inl rfl⟩
    | false =>
      cases hd : decode .command (Memory.readBytes s.mem s.commandAddr cmdSize) with
      | ok i =>
        obtain ⟨stes, ctls, heffect⟩ := commandEffect_eq_withCaches i s
        refine ⟨_, (step_of_queued_command hp he ha hd).trans (exec_command (format_of_decode_command hd) s), ?_⟩
        exact (State.runCommand_succeeds_or_idle _ hc heffect).symm.imp_right fun ht => ⟨rfl, ht⟩
      | error e =>
        refine ⟨_, step_of_undecodable_command hp he ha hd, ?_⟩
        exact (State.runUnrecognised_succeeds_or_idle e hc).symm.imp_right fun ht => ⟨rfl, ht⟩

/-! ### The commands that a queue holds (R163 to R166) -/

/-- The queue of the executing Domain holds `k` commands: its produce index is `k` past its consume index, modulo twice
the capacity. -/
def State.CommandsQueued (s : State) (k : Nat) : Prop :=
  (s.dom s.cur).cmdqWr.toNat ≡ (s.dom s.cur).cmdqRd.toNat + k [MOD 2 ^ ((s.dom s.cur).cmdqShift s.cfg + 1)]

/-- A queue that holds no command is an empty one (R164). -/
theorem State.commandsQueued_zero_iff (s : State) :
    s.CommandsQueued 0 ↔ (s.dom s.cur).cmdqEmpty s.cfg = true :=
  (queueEmpty_iff _ _ _).symm

/-- Whatever the indices hold, a queue of `2^q` entries holds less than `2^(q+1)` commands. -/
theorem State.exists_commandsQueued (s : State) :
    ∃ k < 2 ^ ((s.dom s.cur).cmdqShift s.cfg + 1), s.CommandsQueued k := by
  unfold State.CommandsQueued
  generalize (s.dom s.cur).cmdqWr.toNat = produce, (s.dom s.cur).cmdqRd.toNat = consume
  have hpos := Nat.two_pow_pos ((s.dom s.cur).cmdqShift s.cfg + 1)
  generalize 2 ^ ((s.dom s.cur).cmdqShift s.cfg + 1) = lap at hpos
  refine ⟨(produce + (lap * consume - consume)) % lap, Nat.mod_lt _ hpos, Nat.ModEq.symm ?_⟩
  have hle : consume ≤ lap * consume := Nat.le_mul_of_pos_left consume hpos
  calc consume + (produce + (lap * consume - consume)) % lap
    _ ≡ consume + (produce + (lap * consume - consume)) [MOD lap] := (Nat.mod_modEq _ _).add_left _
    _ = produce + lap * consume := by omega
    _ ≡ produce [MOD lap] := Nat.add_mul_mod_self_left ..

/-- A command that succeeds leaves one command less in the queue (R166, R168). -/
theorem State.CommandSucceeds.commandsQueued {s t : State} {k : Nat} (h : s.CommandSucceeds t)
    (he : (s.dom s.cur).cmdqEmpty s.cfg = false) (hk : s.CommandsQueued (k + 1)) : t.CommandsQueued k := by
  obtain ⟨⟨hcfg, -, hcur, -⟩, -, -, -, -, hdom, -, hcons⟩ := h
  have hne := mt (Domain.cmdqEmpty_iff s.cfg (s.dom s.cur)).2 (Bool.not_eq_true _ ▸ he)
  rw [if_neg hne, ← cmdqShift_eq, ← index_toNat, ← index_toNat] at hcons
  unfold State.CommandsQueued
  rw [hcur, hcfg]
  have hshift : (t.dom s.cur).cmdqShift s.cfg = (s.dom s.cur).cmdqShift s.cfg := by rw [hdom]; rfl
  have hwr : (t.dom s.cur).cmdqWr = (s.dom s.cur).cmdqWr := by rw [hdom]; rfl
  have hrd : (t.dom s.cur).cmdqRd.toNat ≡ (s.dom s.cur).cmdqRd.toNat + 1
      [MOD 2 ^ ((s.dom s.cur).cmdqShift s.cfg + 1)] := by
    rw [Domain.cmdqRd, hcons]
    exact Nat.mod_modEq _ _
  rw [hshift, hwr]
  calc (s.dom s.cur).cmdqWr.toNat
    _ ≡ (s.dom s.cur).cmdqRd.toNat + (k + 1) [MOD 2 ^ ((s.dom s.cur).cmdqShift s.cfg + 1)] := hk
    _ = (s.dom s.cur).cmdqRd.toNat + 1 + k := by omega
    _ ≡ (t.dom s.cur).cmdqRd.toNat + k [MOD 2 ^ ((s.dom s.cur).cmdqShift s.cfg + 1)] := hrd.symm.add_right k

/-- A drain of a queue that holds `k` commands is over after at most `k` of them and the final peek (R252). -/
theorem run_of_draining_ends {s : State} {k : Nat} (hc : s.cfg.wf = true) (hp : s.phase = .draining)
    (hk : s.CommandsQueued k) :
    ∃ n t, n ≤ k + 1 ∧ Host.Core.run Sys2Proof.core n s = .next t ∧ t.phase = .idle := by
  induction k generalizing s with
  | zero =>
    have he := s.commandsQueued_zero_iff.1 hk
    exact ⟨1, _, le_rfl, (run_succ (step_of_empty_queue hp he)).trans (run_zero _), rfl⟩
  | succ k ih =>
    obtain ⟨t, hstep, hidle | ⟨he, succeeds⟩⟩ := step_of_draining_cases hc hp
    · exact ⟨1, t, by omega, (run_succ hstep).trans (run_zero t), hidle⟩
    · have hk' := succeeds.commandsQueued he hk
      obtain ⟨⟨hcfg, -⟩, -, hphase, -⟩ := succeeds
      obtain ⟨n, u, hn, hrun, hidle⟩ := ih (hcfg ▸ hc) (hphase.trans hp) hk'
      exact ⟨n + 1, u, by omega, (run_succ hstep).trans hrun, hidle⟩

end Sys2Proof.Machine
end

section
/-! The statements about the drain and about commands without an effect on windows (43_commands.md). -/

namespace Sys2Proof.Machine

/-- Settles O5: by the queue's emptiness; the head's address is `commandAddr_eq`. -/
theorem stepRunsQueuedCommand : Obligations.StepRunsQueuedCommand := by
  unfold Obligations.StepRunsQueuedCommand
  intro s D q base produce consume addr hp
  have haddr : s.commandAddr = addr := s.commandAddr_eq
  exact ⟨fun he => step_of_empty_queue hp ((Domain.cmdqEmpty_iff ..).2 he),
    fun i hne ha hd => step_of_queued_command hp (Domain.cmdqEmpty_eq_false hne) (haddr ▸ ha) (haddr ▸ hd)⟩

/-- Settles O8: the pass is `runUnrecognised`, by membership of the opcode in `EXTRA_NOP_OPCODES`. -/
theorem unrecognisedOpcodeFailsOrIsExtraNop : Obligations.UnrecognisedOpcodeFailsOrIsExtraNop := by
  unfold Obligations.UnrecognisedOpcodeFailsOrIsExtraNop
  intro s op D q base produce consume addr hc hp hne ha hd
  have haddr : s.commandAddr = addr := s.commandAddr_eq
  refine ⟨_, step_of_undecodable_command hp (Domain.cmdqEmpty_eq_false hne) (haddr ▸ ha) (haddr ▸ hd), ?_⟩
  split
  next hop => exact State.runUnrecognised_of_mem hop ▸ State.runCommand_nop_succeeds hc
  next hop => exact State.runUnrecognised_of_not_mem hop ▸ s.commandFailed_commandFails .illegal

/-- Settles O12: CMD_SYNC has no tag and no effect. -/
theorem syncOnlyAdvances : Obligations.SyncOnlyAdvances := by
  unfold Obligations.SyncOnlyAdvances
  intro s cs data addr hc
  exact ⟨_, exec_command rfl s, State.runCommand_nop_succeeds hc⟩

/-- Settles O13: a tagged removal, of the one id. -/
theorem cfgiSteRemovesItsStream : Obligations.CfgiSteRemovesItsStream := by
  unfold Obligations.CfgiSteRemovesItsStream
  intro s ssec leaf sid hc
  have removal := State.runCommand_eraseStes ssec (fun k => k == sid.toNat) hc
  simp only [beq_iff_eq] at removal
  exact ⟨_, exec_command rfl s, removal⟩

/-- Settles O41: a drain ends after the commands that its queue holds, less than `2^(q+1)`, and the final peek. -/
theorem drainEnds : Obligations.DrainEnds := by
  unfold Obligations.DrainEnds
  intro s hc hp
  obtain ⟨k, hlt, hk⟩ := s.exists_commandsQueued
  obtain ⟨n, t, hn, hrun, hidle⟩ := run_of_draining_ends hc hp hk
  rw [cmdqShift_eq] at hlt
  exact ⟨n, t, by omega, hrun, hidle⟩

end Sys2Proof.Machine
end

section
/-! SUPPORT. What `SignalEvent` does in each of its cases (R300 to R305), and the fields of EVENTQ_PROD after a recorded
event and after an overflow, in the words of the statements. -/

namespace Sys2Proof.Machine

/-- Of two replacements of a Domain the second holds. -/
theorem State.setDom_setDom_same (s : State) (d : SecurityState) (D D' : Domain) :
    (s.setDom d D).setDom d D' = s.setDom d D' := by
  cases d <;> rfl

/-! ### `SignalEvent` by its case -/

/-- An event that is not to be recorded, or that meets a disabled queue, changes nothing (R301, R302). -/
theorem State.signalEvent_of_suppressed {s : State} {d : SecurityState} {record : Bool} (e : Event)
    (h : (record && (s.dom d).eventqen) = false) : s.signalEvent d e record = s := by
  rcases s.signalEvent_cases d e record with ⟨-, hs⟩ | ⟨hr, -⟩ | ⟨hr, -⟩ | ⟨hr, -⟩
  · exact hs
  all_goals simp [h] at hr

/-- An event for a full queue is noted as an overflow (R304). -/
theorem State.signalEvent_of_full {s : State} {d : SecurityState} (e : Event) (hen : (s.dom d).eventqen = true)
    (hfull : (s.dom d).evtqFull s.cfg = true) : s.signalEvent d e true = s.setDom d (s.dom d).noteOverflow := by
  rcases s.signalEvent_cases d e true with ⟨hr, -⟩ | ⟨-, -, hs⟩ | ⟨-, hf, -⟩ | ⟨-, hf, -⟩
  · simp [hen] at hr
  · exact hs
  all_goals simp [hfull] at hf

/-- An event whose write fails is dropped (R96). -/
theorem State.signalEvent_of_failing_write {s : State} {d : SecurityState} (e : Event)
    (hfull : (s.dom d).evtqFull s.cfg = false) (ha : s.memAborts ((s.dom d).evtAddr s.cfg) eventSize = true) :
    s.signalEvent d e true = s := by
  rcases s.signalEvent_cases d e true with ⟨-, hs⟩ | ⟨-, hf, -⟩ | ⟨-, -, -, hs⟩ | ⟨-, -, hna, -⟩
  · exact hs
  · simp [hfull] at hf
  · exact hs
  · simp [ha] at hna

/-- Any other event is recorded: its bytes stored, the index advanced, and an empty queue's line pulsed (R303, R305). -/
theorem State.signalEvent_of_recorded {s : State} {d : SecurityState} (e : Event) (hen : (s.dom d).eventqen = true)
    (hfull : (s.dom d).evtqFull s.cfg = false) (ha : s.memAborts ((s.dom d).evtAddr s.cfg) eventSize = false) :
    s.signalEvent d e true =
      State.setDom { s with mem := Memory.writeBytes s.mem ((s.dom d).evtAddr s.cfg) e.bytes } d
        { (s.dom d).advanceWr s.cfg with
          evtqPulses := (s.dom d).evtqPulses +
            if (s.dom d).evtqEmpty s.cfg && (s.dom d).eventqIrqen then 1 else 0 } := by
  rcases s.signalEvent_cases d e true with ⟨hr, -⟩ | ⟨-, hf, -⟩ | ⟨-, -, hab, -⟩ | ⟨-, -, -, hs⟩
  · simp [hen] at hr
  · simp [hfull] at hf
  · simp [ha] at hab
  · exact hs

/-- `SignalEvent` leaves what only inputs and walks change. -/
theorem State.signalEvent_sameRest (s : State) (d : SecurityState) (e : Event) (record : Bool) :
    s.SameRest (s.signalEvent d e record) := by
  simp [State.SameRest]

/-- `SignalEvent` leaves the other Domain alone. -/
theorem State.signalEvent_dom_other (s : State) {d d' : SecurityState} (e : Event) (record : Bool) (h : d' ≠ d) :
    (s.signalEvent d e record).dom d' = s.dom d' := by
  rcases s.signalEvent_cases d e record with ⟨-, hs⟩ | ⟨-, -, hs⟩ | ⟨-, -, -, hs⟩ | ⟨-, -, -, hs⟩ <;> rw [hs]
  · exact State.setDom_dom_other _ _ h
  · rw [State.setDom_dom_other _ _ h]
    cases d' <;> rfl

/-! ### The queue's conditions (R161 to R165) -/

/-- A queue whose indices are not one capacity apart is not full. -/
theorem Domain.evtqFull_eq_false {cfg : Config} {D : Domain}
    (h : D.eventqProd.toNat % 2 ^ 20 % 2 ^ (min (D.eventqBase.toNat % 2 ^ 5) cfg.maxEvtqShift + 1)
      ≠ (D.eventqCons.toNat % 2 ^ 20 + 2 ^ min (D.eventqBase.toNat % 2 ^ 5) cfg.maxEvtqShift)
        % 2 ^ (min (D.eventqBase.toNat % 2 ^ 5) cfg.maxEvtqShift + 1)) :
    D.evtqFull cfg = false := by
  rw [← Bool.not_eq_true, Domain.evtqFull_iff]
  exact h

/-- With legal parameters the event queue's shift leaves room for the wrap bit (R162, log 12). -/
theorem evtqShift_le {cfg : Config} (D : Domain) (hc : cfg.wf = true) : D.evtqShift cfg ≤ 19 := by
  have hmax : cfg.maxEvtqShift ≤ 19 := by simp_all [Config.wf]
  exact le_trans (Nat.min_le_right _ _) hmax

/-! ### EVENTQ_PROD after a recorded event (R166, R169) -/

/-- The produce index of an advanced EVENTQ_PROD, for a shift that leaves room for the wrap bit. -/
theorem Domain.advanceWr_evtqWr {cfg : Config} (D : Domain) (hc : cfg.wf = true) :
    (D.advanceWr cfg).evtqWr.toNat = (D.evtqWr.toNat + 1) % 2 ^ (D.evtqShift cfg + 1) := by
  rw [Domain.evtqWr, Domain.advanceWr_eventqProd, Field.get_set_same _ _ _ (by decide),
    advancedField_toNat (evtqShift_le D hc)]

/-- Every bit of EVENTQ_PROD above WR, the overflow flag among them, after an advance. -/
theorem Domain.advanceWr_eventqProd_rest (cfg : Config) (D : Domain) :
    (D.advanceWr cfg).eventqProd &&& 0xFFF00000#32 = D.eventqProd &&& 0xFFF00000#32 :=
  Field.set_and_of_disjoint _ _ _ (by decide)

/-! ### EVENTQ_PROD after an overflow (R304) -/

/-- An overflow reaches EVENTQ_PROD alone. -/
theorem Domain.noteOverflow_eq (D : Domain) : D.noteOverflow = { D with eventqProd := D.noteOverflow.eventqProd } := by
  unfold Domain.noteOverflow
  split <;> rfl

/-- An overflow toggles the flag exactly if none is outstanding. -/
theorem Domain.noteOverflow_eventqProd (D : Domain) :
    D.noteOverflow.eventqProd =
      if D.overflowOutstanding then D.eventqProd
      else RegField.overflow.set (BitVec.ofBool (!D.ovflg)) D.eventqProd := by
  unfold Domain.noteOverflow
  split <;> rfl

@[simp] theorem Domain.noteOverflow_cr0 (D : Domain) : D.noteOverflow.cr0 = D.cr0 := by rw [Domain.noteOverflow_eq]
@[simp] theorem Domain.noteOverflow_eventqBase (D : Domain) : D.noteOverflow.eventqBase = D.eventqBase := by
  rw [Domain.noteOverflow_eq]
@[simp] theorem Domain.noteOverflow_eventqCons (D : Domain) : D.noteOverflow.eventqCons = D.eventqCons := by
  rw [Domain.noteOverflow_eq]

@[simp] theorem Domain.noteOverflow_ovackflg (D : Domain) : D.noteOverflow.ovackflg = D.ovackflg := by
  simp [Domain.ovackflg]

/-- The overflow flag after an overflow. -/
theorem Domain.noteOverflow_ovflg (D : Domain) :
    D.noteOverflow.ovflg = if D.ovflg = D.ovackflg then !D.ovflg else D.ovflg := by
  rw [Domain.ovflg, Domain.noteOverflow_eventqProd]
  by_cases hack : D.ovflg = D.ovackflg
  · simp only [Domain.overflowOutstanding, hack, bne_self_eq_false, Bool.false_eq_true, if_false, if_true]
    exact Field.flag_set_same _ _ _ (by decide)
  · simp only [Domain.overflowOutstanding, bne_iff_ne, ne_eq, hack, not_false_eq_true, if_true, if_false]
    rfl

/-- Every bit of EVENTQ_PROD below the overflow flag after an overflow. -/
theorem Domain.noteOverflow_eventqProd_rest (D : Domain) :
    D.noteOverflow.eventqProd &&& 0x7FFFFFFF#32 = D.eventqProd &&& 0x7FFFFFFF#32 := by
  rw [Domain.noteOverflow_eventqProd]
  split
  · rfl
  · exact Field.set_and_of_disjoint _ _ _ (by decide)

/-- An overflow leaves the produce index. -/
@[simp] theorem Domain.noteOverflow_evtqWr (D : Domain) : D.noteOverflow.evtqWr = D.evtqWr := by
  rw [Domain.evtqWr, Domain.noteOverflow_eventqProd]
  split
  · rfl
  · exact Field.get_set_disjoint _ _ _ _ (by decide)

@[simp] theorem Domain.noteOverflow_eventqen (D : Domain) : D.noteOverflow.eventqen = D.eventqen := by
  simp [Domain.eventqen]

/-- A full queue is full after an overflow too. -/
@[simp] theorem Domain.noteOverflow_evtqFull (D : Domain) (cfg : Config) :
    D.noteOverflow.evtqFull cfg = D.evtqFull cfg := by
  simp [Domain.evtqFull, Domain.evtqShift, Domain.evtqRd]

/-- After an overflow one is outstanding. -/
theorem Domain.noteOverflow_overflowOutstanding (D : Domain) : D.noteOverflow.overflowOutstanding = true := by
  rw [Domain.overflowOutstanding, Domain.noteOverflow_ovflg, Domain.noteOverflow_ovackflg]
  cases D.ovflg <;> cases D.ovackflg <;> rfl

/-- A second overflow is not noted. -/
@[simp] theorem Domain.noteOverflow_noteOverflow (D : Domain) : D.noteOverflow.noteOverflow = D.noteOverflow :=
  if_pos D.noteOverflow_overflowOutstanding

end Sys2Proof.Machine
end

section
/-! The statements about event signalling (44_event_signalling.md). -/

namespace Sys2Proof.Machine

/-- Settles O35: the event is recorded; the store gives the bytes and their frame, the advance EVENTQ_PROD. -/
theorem recordedEventIsWrittenAndCounted : Obligations.RecordedEventIsWrittenAndCounted := by
  unfold Obligations.RecordedEventIsWrittenAndCounted
  intro s d e D q base produce consume addr hc hen hfull ha t
  have haddr : D.evtAddr s.cfg = addr := by rw [evtAddr_eq, evtqShift_eq]
  have hlen : e.bytes.length = 32 := length_bytesOf ..
  have ht := State.signalEvent_of_recorded e (D.eventqen_eq.trans hen) (Domain.evtqFull_eq_false hfull) (haddr ▸ ha)
  have hmem : t.mem = Memory.writeBytes s.mem addr e.bytes := by
    rw [show t = _ from ht, State.setDom_mem, ← haddr]
  have hdom : t.dom d = { D.advanceWr s.cfg with
      evtqPulses := D.evtqPulses + if D.evtqEmpty s.cfg && D.eventqIrqen then 1 else 0 } := by
    rw [show t = _ from ht, State.setDom_dom_same]
  refine ⟨?bytes, fun a hout => ?otherBytes, ?index, ?flag, ?pulse, s.signalEvent_dom d e true d,
    fun d' hd => s.signalEvent_dom_other e true hd, s.signalEvent_sameRest d e true, s.signalEvent_ctls d e true,
    s.signalEvent_phase d e true, s.signalEvent_response d e true⟩
  case bytes =>
    rw [hmem]
    exact readBytes_writeBytes_of_length _ _ hlen (by decide)
  case otherBytes =>
    rw [hmem]
    exact Memory.read_writeBytes_other _ _ _ (hlen ▸ hout)
  case index =>
    rw [hdom, ← index_toNat]
    simpa only [Domain.evtqWr, index_toNat, evtqShift_eq] using D.advanceWr_evtqWr hc
  case flag =>
    rw [hdom]
    exact D.advanceWr_eventqProd_rest s.cfg
  case pulse =>
    rw [hdom]
    simp only [Bool.and_eq_true, Domain.evtqEmpty_iff, Domain.eventqIrqen_eq]
    rfl

/-- Settles O36: the full queue notes an overflow, which is a toggle exactly if the flags agree. -/
theorem overflowTogglesOnlyWhenAcknowledged : Obligations.OverflowTogglesOnlyWhenAcknowledged := by
  unfold Obligations.OverflowTogglesOnlyWhenAcknowledged
  intro s d e D q produce consume hen hfull t
  have ht : t = s.setDom d D.noteOverflow :=
    State.signalEvent_of_full e (D.eventqen_eq.trans hen) ((Domain.evtqFull_iff ..).2 hfull)
  have hdom : t.dom d = D.noteOverflow := by rw [ht, State.setDom_dom_same]
  have hmem : t.mem = s.mem := by rw [ht, State.setDom_mem]
  refine ⟨?flag, ?bits, ?domain, fun d' hd => s.signalEvent_dom_other e true hd, hmem,
    s.signalEvent_sameRest d e true, s.signalEvent_ctls d e true, s.signalEvent_phase d e true,
    s.signalEvent_response d e true⟩
  case flag => simpa only [hdom, Domain.ovflg_eq, Domain.ovackflg_eq] using D.noteOverflow_ovflg
  case bits => rw [hdom]; exact D.noteOverflow_eventqProd_rest
  case domain => rw [hdom]; exact D.noteOverflow_eq

/-- Settles O37: the queue is still full and enabled after the first overflow, and noting an overflow is idempotent. -/
theorem secondOverflowBeforeAckIsInvisible : Obligations.SecondOverflowBeforeAckIsInvisible := by
  unfold Obligations.SecondOverflowBeforeAckIsInvisible
  intro s d e e' D q produce consume hen hfull
  have enabled : D.eventqen = true := D.eventqen_eq.trans hen
  have full : D.evtqFull s.cfg = true := (Domain.evtqFull_iff ..).2 hfull
  have first : s.signalEvent d e true = s.setDom d D.noteOverflow := State.signalEvent_of_full e enabled full
  rw [first, State.signalEvent_of_full e' (by simpa using enabled) (by simpa using full), State.setDom_dom_same,
    Domain.noteOverflow_noteOverflow, State.setDom_setDom_same]

/-- Settles O38: the cases of `SignalEvent` that leave the state as it is. -/
theorem suppressedEventChangesNothing : Obligations.SuppressedEventChangesNothing := by
  unfold Obligations.SuppressedEventChangesNothing
  intro s d e record D q base produce consume addr
  have haddr : D.evtAddr s.cfg = addr := by rw [evtAddr_eq, evtqShift_eq]
  refine ⟨fun hoff => State.signalEvent_of_suppressed e ?_, fun hr _ hfull ha => ?_⟩
  · rw [Bool.and_eq_false_iff, Domain.eventqen_eq]
    exact hoff
  · subst hr
    exact State.signalEvent_of_failing_write e (Domain.evtqFull_eq_false hfull) (haddr ▸ ha)

end Sys2Proof.Machine
end

section
/-! SUPPORT. The registry under `Register` and `Unregister` (R340): the fields of a fresh controller, what taking a
controller in or out leaves as it is, and the operations on it by whether the stream has a controller. -/

namespace Sys2Proof.Machine

/-! ### A fresh controller (R8, R56) -/

theorem streamSec_eq (cfg : Config) (sid : StreamId) :
    streamSec cfg sid = if sid ∈ cfg.secureStreams then .secure else .nonSecure := by
  simp only [streamSec, List.contains_iff_mem]

theorem backendOf_eq (cfg : Config) (sid : StreamId) :
    backendOf cfg sid = if sid ∈ cfg.hardwareStreams then .hardwareAssisted else .software := by
  simp only [backendOf, List.contains_iff_mem]

/-- A fresh controller is enabled as the Domain of its stream is. -/
theorem State.newController_enabled (s : State) (sid : StreamId) :
    (s.newController sid).enabled = (s.dom (s.newController sid).sec).cr0.getLsbD 0 :=
  Domain.smmuen_eq _

/-! ### The frame of a change of the registry -/

/-- An operation that replaces the registry and answers leaves everything but the registry, the phase and the
response. -/
theorem State.respond_withCtls_frame (s : State) (ctls : List (Nat × Controller)) :
    let t := State.respond { s with ctls := ctls } .done
    t.phase = .idle ∧ t.response = .done ∧ s.SameRest t ∧ s.SameMemory t ∧ ∀ d, t.dom d = s.dom d := by
  refine ⟨rfl, rfl, ⟨rfl, rfl, rfl, rfl, rfl, rfl⟩, fun _ => rfl, fun d => ?_⟩
  cases d <;> rfl

/-! ### The operations by whether the stream has a controller (D33, R320) -/

theorem State.perform_attach_of_unregistered {s : State} {sid : StreamId} (h : s.ctl? sid = none) :
    s.perform (.attach sid) = .next ((s.register sid).respond .done) := by
  simp only [State.perform, h]

theorem State.perform_attach_of_registered {s : State} {sid : StreamId} {c : Controller} (h : s.ctl? sid = some c) :
    s.perform (.attach sid) = .refused .streamAlreadyRegistered := by
  simp only [State.perform, h]

theorem State.perform_detach_of_registered {s : State} {sid : StreamId} {c : Controller} (h : s.ctl? sid = some c) :
    s.perform (.detach sid) = .next ((s.unregister sid).respond .done) := by
  simp only [State.perform, h]

theorem State.perform_detach_of_unregistered {s : State} {sid : StreamId} (h : s.ctl? sid = none) :
    s.perform (.detach sid) = .refused .streamNotRegistered := by
  simp only [State.perform, h]

theorem State.perform_access_of_unregistered {s : State} {master : Nat} (va : Addr) (kind : AccessKind)
    (h : s.ctl? (streamOfMaster s.cfg master) = none) :
    s.perform (.access master va kind) = .refused .noController := by
  simp only [State.perform, h]

end Sys2Proof.Machine
end

section
/-! The statements about the stream controllers' registry (45_stream_controllers.md). -/

namespace Sys2Proof.Machine

/-- Settles O31: the map laws read the registry after each operation, and the rest of the state is its frame. -/
theorem attachMakesAFreshController : Obligations.AttachMakesAFreshController := by
  unfold Obligations.AttachMakesAFreshController
  intro s sid
  refine ⟨fun hnone => ?attach, fun c hsome => ?detach, fun hsome => ?attachTwice,
    State.perform_detach_of_unregistered, fun _ va kind => State.perform_access_of_unregistered va kind⟩
  case attach =>
    exact ⟨_, s.newController sid, State.perform_attach_of_unregistered hnone, Assoc.get?_set_same _ _ _, rfl,
      streamSec_eq _ _, backendOf_eq _ _, s.newController_enabled sid, rfl, rfl,
      fun _ hk => Assoc.get?_set_other _ _ hk, s.respond_withCtls_frame _⟩
  case detach =>
    exact ⟨_, State.perform_detach_of_registered hsome, Assoc.get?_erase_same _ _,
      fun _ hk => Assoc.get?_erase_other _ hk, s.respond_withCtls_frame _⟩
  case attachTwice =>
    obtain ⟨c, hc⟩ := Option.isSome_iff_exists.1 hsome
    exact State.perform_attach_of_registered hc

end Sys2Proof.Machine
end

section
/-! SUPPORT. The register interface: the register map, what a read depends on, what the writes without a side effect
store, the writes to CR0, CMDQ_PROD, IRQ_CTRL and GERRORN in the words of the statements, and the register space by
offset. -/

namespace Sys2Proof

/-! ### The register map (R35) -/

theorem RegName.bytes_pos (r : RegName) : 0 < r.bytes := by
  cases r <;> decide

theorem RegName.bytes_eq (r : RegName) :
    r.bytes = if r ∈ [RegName.strtabBase, .cmdqBase, .eventqBase] then 8 else 4 := by
  cases r <;> decide

/-- In a map without overlap, two registers at one offset and of one width are the same row. -/
theorem RegSlot.eq_of_mapWf {map : List RegSlot} (hmap : RegSlot.mapWf map = true) {r r' : RegSlot} (hr : r ∈ map)
    (hr' : r' ∈ map) (hoff : r'.offset = r.offset) (hbytes : r'.reg.bytes = r.reg.bytes) : r' = r := by
  have hpos := r.reg.bytes_pos
  induction map with
  | nil => cases hr
  | cons t ts ih =>
    simp only [RegSlot.mapWf, Bool.and_eq_true, List.all_eq_true, Bool.or_eq_true, decide_eq_true_eq] at hmap
    obtain ⟨apart, hts⟩ := hmap
    rcases List.mem_cons.1 hr with rfl | htail <;> rcases List.mem_cons.1 hr' with rfl | htail'
    · rfl
    · have := apart r' htail'
      omega
    · have := apart r htail
      omega
    · exact ih hts htail htail'

theorem Config.mapWf_of_wf {cfg : Config} (h : cfg.wf = true) : RegSlot.mapWf cfg.regOffset = true := by
  simp only [Config.wf, Bool.and_eq_true] at h
  exact h.2

end Sys2Proof

namespace Sys2Proof.Machine

/-! ### Reads (R361) -/

/-- A register reads from the configuration and its own Domain alone. -/
theorem State.regRead_congr {s t : State} {d : SecurityState} (hcfg : t.cfg = s.cfg) (hdom : t.dom d = s.dom d)
    (r : RegName) : t.regRead d r = s.regRead d r := by
  simp only [State.regRead, hcfg, hdom]

/-! ### The frame of a write that changes one Domain -/

/-- Replacing a Domain and answering leaves the registry, guest memory and what only inputs and walks change. -/
theorem State.respond_setDom_frame (s : State) (d : SecurityState) (D : Domain) :
    let t := (s.setDom d D).respond .done
    t.phase = .idle ∧ t.response = .done ∧ s.SameMemory t ∧ s.SameRest t ∧ t.ctls = s.ctls := by
  simp [State.SameMemory, State.SameRest]

theorem State.respond_setDom_dom_same (s : State) (d : SecurityState) (D : Domain) (r : Response) :
    ((s.setDom d D).respond r).dom d = D := by simp

theorem State.respond_setDom_dom_other (s : State) {d e : SecurityState} (D : Domain) (r : Response) (h : e ≠ d) :
    ((s.setDom d D).respond r).dom e = s.dom e := by
  rw [State.respond_dom, State.setDom_dom_other s D h]

/-! ### Writes without a side effect (R371 to R373) -/

/-- The Domain after a write to a base register, STRTAB_BASE_CFG or an index register of the event queue, the registers
whose write only stores. -/
def Domain.plainWrite (D : Domain) (v : BitVec 64) (r : RegName) : Domain :=
  let w : BitVec 32 := v.setWidth 32
  { D with
    strtabBase := if r = .strtabBase then v else D.strtabBase
    strtabBaseCfg := if r = .strtabBaseCfg then w else D.strtabBaseCfg
    cmdqBase := if r = .cmdqBase then v else D.cmdqBase
    eventqBase := if r = .eventqBase then v else D.eventqBase
    eventqProd := if r = .eventqProd then w &&& registerMask .eventqProd else D.eventqProd
    eventqCons := if r = .eventqCons then w &&& registerMask .eventqCons else D.eventqCons }

/-- The registers whose write only stores, each with its bits that are read back (log 11). -/
def plainRegisters : List (RegName × BitVec 64) :=
  [(.strtabBase, BitVec.allOnes 64), (.strtabBaseCfg, 0x307FF#64), (.cmdqBase, BitVec.allOnes 64),
    (.eventqBase, BitVec.allOnes 64), (.eventqProd, 0x800FFFFF#64), (.eventqCons, 0x800FFFFF#64)]

theorem State.regWrite_of_plain (s : State) (d : SecurityState) (v : BitVec 64) {r : RegName} {mask : BitVec 64}
    (h : (r, mask) ∈ plainRegisters) :
    s.regWrite d r v = (s.setDom d ((s.dom d).plainWrite v r)).respond .done := by
  simp only [plainRegisters, List.mem_cons, Prod.mk.injEq, List.not_mem_nil, or_false] at h
  rcases h with ⟨rfl, -⟩ | ⟨rfl, -⟩ | ⟨rfl, -⟩ | ⟨rfl, -⟩ | ⟨rfl, -⟩ | ⟨rfl, -⟩ <;> rfl

/-- The low half of a value, masked, is the value under the mask. -/
theorem setWidth_low_and (v : BitVec 64) (m : BitVec 32) :
    (v.setWidth 32 &&& m).setWidth 64 = v &&& m.setWidth 64 := by
  apply BitVec.eq_of_getLsbD_eq
  intro i hi
  by_cases h32 : i < 32
  · simp [h32, hi]
  · simp [BitVec.getLsbD_of_ge m i (by omega)]

/-- A plain write is read back in the register's fields. -/
theorem State.regRead_plainWrite_same {t : State} {d : SecurityState} {D : Domain} {v : BitVec 64} {r : RegName}
    {mask : BitVec 64} (h : (r, mask) ∈ plainRegisters) (ht : t.dom d = D.plainWrite v r) :
    t.regRead d r = v &&& mask := by
  simp only [plainRegisters, List.mem_cons, Prod.mk.injEq, List.not_mem_nil, or_false] at h
  simp only [State.regRead, ht]
  have index : ∀ m : BitVec 32, (v.setWidth 32 &&& m &&& m).setWidth 64 = v &&& m.setWidth 64 := fun m => by
    rw [BitVec.and_assoc, BitVec.and_self, setWidth_low_and]
  rcases h with ⟨rfl, rfl⟩ | ⟨rfl, rfl⟩ | ⟨rfl, rfl⟩ | ⟨rfl, rfl⟩ | ⟨rfl, rfl⟩ | ⟨rfl, rfl⟩
  · exact BitVec.and_allOnes.symm
  · exact setWidth_low_and v _
  · exact BitVec.and_allOnes.symm
  · exact BitVec.and_allOnes.symm
  · exact index _
  · exact index _

/-- Every other register reads a field that a plain write does not store. -/
theorem State.regRead_plainWrite_other {s t : State} {d : SecurityState} {v : BitVec 64} {r r' : RegName}
    (hr : r' ≠ r) (hcfg : t.cfg = s.cfg) (ht : t.dom d = (s.dom d).plainWrite v r) :
    t.regRead d r' = s.regRead d r' := by
  simp only [State.regRead, hcfg, ht]
  cases r' <;> simp only [Domain.plainWrite, hr.symm, if_false]

/-- A plain write leaves the cache and the lines. -/
theorem Domain.plainWrite_frame (D : Domain) (v : BitVec 64) (r : RegName) :
    (D.plainWrite v r).steCache = D.steCache ∧ (D.plainWrite v r).gerrLine = D.gerrLine
      ∧ (D.plainWrite v r).evtqPulses = D.evtqPulses :=
  ⟨rfl, rfl, rfl⟩

/-! ### CR0 (R362, R321) -/

/-- `SetEnabled`, spelled out: a change of `Enabled` empties the windows if the configuration says so (D23). -/
theorem Controller.setEnabled_eq (cfg : Config) (b : Bool) (c : Controller) :
    c.setEnabled cfg b = if c.enabled ≠ b then
      { c with enabled := b, win := if cfg.clearWindowsOnEnableChange then [] else c.win } else c := by
  unfold Controller.setEnabled
  by_cases h : c.enabled = b
  · simp [h]
  · cases hc : cfg.clearWindowsOnEnableChange <;> simp [h, Controller.invalidateTlb]

/-- SMMUEN after a write to CR0 is bit 0 of the value written. -/
theorem smmuen_writeCr0 (D : Domain) (v : BitVec 64) :
    ({ D with cr0 := v.setWidth 32 &&& registerMask .cr0 } : Domain).smmuen = v.getLsbD 0 := by
  simp [Domain.smmuen_eq, registerMask]

/-- The registry after a write to CR0: each controller of the Domain has had `SetEnabled` (R321). -/
theorem State.writeCr0_ctl (s : State) (d : SecurityState) (v : BitVec 64) (k : Nat) :
    Assoc.get? (s.writeCr0 d (v.setWidth 32)).ctls k = (Assoc.get? s.ctls k).map (fun c =>
      if c.sec = d ∧ c.enabled ≠ v.getLsbD 0 then
        { c with enabled := v.getLsbD 0, win := if s.cfg.clearWindowsOnEnableChange then [] else c.win }
      else c) := by
  simp only [State.writeCr0, State.forDomainCtls_ctls, State.setDom_ctls, Assoc.get?_map, smmuen_writeCr0,
    Controller.setEnabled_eq, ite_and]

/-! ### CMDQ_PROD (R368, R251) -/

theorem State.writeCmdqProd_of_disabled {s : State} {d : SecurityState} (v : BitVec 32)
    (h : (s.dom d).cr0.getLsbD 3 = false) :
    s.writeCmdqProd d v = (s.setDom d { s.dom d with cmdqProd := v &&& registerMask .cmdqProd }).respond .done := by
  simp only [State.writeCmdqProd, State.respond_setDom_dom_same, Domain.cmdqen_eq, h, Bool.false_eq_true, if_false]

theorem State.writeCmdqProd_of_enabled {s : State} {d : SecurityState} (v : BitVec 32)
    (h : (s.dom d).cr0.getLsbD 3 = true) :
    s.writeCmdqProd d v =
      { s.setDom d { s.dom d with cmdqProd := v &&& registerMask .cmdqProd } with
        phase := .draining, cur := d, response := .none } := by
  simp only [State.writeCmdqProd, State.respond_setDom_dom_same, Domain.cmdqen_eq, h, if_true]
  rfl

/-- The Domains after a write to CMDQ_PROD, whether or not the drain starts. -/
theorem State.writeCmdqProd_dom (s : State) (d e : SecurityState) (v : BitVec 32) :
    (s.writeCmdqProd d v).dom e = (s.setDom d { s.dom d with cmdqProd := v &&& registerMask .cmdqProd }).dom e := by
  cases h : (s.dom d).cr0.getLsbD 3 with
  | false => rw [State.writeCmdqProd_of_disabled v h, State.respond_dom]
  | true => rw [State.writeCmdqProd_of_enabled v h]; cases e <;> rfl

/-- What a write to CMDQ_PROD leaves, whether or not the drain starts. -/
theorem State.writeCmdqProd_frame (s : State) (d : SecurityState) (v : BitVec 32) :
    (s.writeCmdqProd d v).mem = s.mem ∧ (s.writeCmdqProd d v).ctls = s.ctls ∧ (s.writeCmdqProd d v).inputs = s.inputs
      ∧ (s.writeCmdqProd d v).cfg = s.cfg := by
  cases h : (s.dom d).cr0.getLsbD 3 with
  | false => simp [State.writeCmdqProd_of_disabled v h]
  | true => simp [State.writeCmdqProd_of_enabled v h]

/-! ### IRQ_CTRL and GERRORN (R364, R366, R59) -/

/-- The level of the line as bits of the registers (R59). -/
theorem Domain.gerrLevel_eq (D : Domain) :
    D.gerrLevel = (D.irqCtrl.getLsbD 0 && (D.gerror.getLsbD 0 != D.gerrorn.getLsbD 0)) := by
  simp only [Domain.gerrLevel, Domain.errorActive, Domain.gerrorIrqen_eq, Domain.cmdqErr_eq, Domain.cmdqErrAck_eq]

/-- The write to IRQ_CTRL, with the recomputed line in bits. -/
theorem Domain.writeIrqCtrl_eq (D : Domain) (v : BitVec 64) :
    D.writeIrqCtrl (v.setWidth 32) = { D with
      irqCtrl := v.setWidth 32 &&& 0x5#32
      gerrLine := v.getLsbD 0 && (D.gerror.getLsbD 0 != D.gerrorn.getLsbD 0) } := by
  simp [Domain.writeIrqCtrl, Domain.refreshGerrLine, Domain.gerrLevel_eq, registerMask]

/-- A write to GERRORN, in either style, stores GERRORN and recomputes the line. -/
theorem Domain.writeGerrorn_eq_refresh (style : AckStyle) (D : Domain) (v : BitVec 32) :
    D.writeGerrorn style v =
      Domain.refreshGerrLine { D with gerrorn := (D.writeGerrorn style v).gerrorn } := by
  cases style with
  | toggleMatch => rfl
  | write1 => unfold Domain.writeGerrorn; dsimp only; split <;> rfl

/-- The line after a write to GERRORN has the level of R59. -/
theorem Domain.writeGerrorn_gerrLine (style : AckStyle) (D : Domain) (v : BitVec 32) :
    (D.writeGerrorn style v).gerrLine =
      (D.irqCtrl.getLsbD 0 && (D.gerror.getLsbD 0 != (D.writeGerrorn style v).gerrorn.getLsbD 0)) :=
  (congrArg Domain.gerrLine (D.writeGerrorn_eq_refresh style v)).trans (Domain.gerrLevel_eq _)

/-- A write to GERRORN changes GERRORN and the line only. -/
theorem Domain.writeGerrorn_frame (style : AckStyle) (D : Domain) (v : BitVec 32) :
    D.writeGerrorn style v = { D with
      gerrorn := (D.writeGerrorn style v).gerrorn, gerrLine := (D.writeGerrorn style v).gerrLine } := by
  have refresh := D.writeGerrorn_eq_refresh style v
  rw [congrArg Domain.gerrLine refresh]
  exact refresh

/-- The style `ToggleMatch` stores the value written. -/
theorem Domain.writeGerrorn_toggleMatch (D : Domain) (v : BitVec 32) :
    (D.writeGerrorn .toggleMatch v).gerrorn = v &&& 0x1#32 := rfl

/-- The style `Write1` stores the error flag where 1 is written (R41). -/
theorem Domain.writeGerrorn_write1 (D : Domain) (v : BitVec 32) :
    (D.writeGerrorn .write1 v).gerrorn =
      if v.getLsbD 0 then RegField.cmdqErr.set (BitVec.ofBool D.cmdqErr) D.gerrorn else D.gerrorn := by
  simp only [Domain.writeGerrorn, Field.flag_eq]
  split <;> rfl

/-- The acknowledge bit after a write to GERRORN, in either style. -/
theorem Domain.writeGerrorn_ack (style : AckStyle) (D : Domain) (v : BitVec 64) :
    (D.writeGerrorn style (v.setWidth 32)).gerrorn.getLsbD 0 =
      if style = .toggleMatch then v.getLsbD 0
      else if v.getLsbD 0 = true then D.gerror.getLsbD 0 else D.gerrorn.getLsbD 0 := by
  cases style with
  | toggleMatch => simp [Domain.writeGerrorn_toggleMatch]
  | write1 =>
    have stored : (RegField.cmdqErr.set (BitVec.ofBool D.cmdqErr) D.gerrorn).getLsbD 0 = D.gerror.getLsbD 0 := by
      rw [← Domain.cmdqErr_eq, ← Field.flag_eq RegField.cmdqErr]
      exact Field.flag_set_same _ _ _ (by decide)
    have bit : (v.setWidth 32).getLsbD 0 = v.getLsbD 0 := by simp
    rw [Domain.writeGerrorn_write1, bit, apply_ite (fun x => BitVec.getLsbD x 0), stored]
    rfl

/-! ### The register space (R35, R53, R83) -/

theorem slotIsExactly_iff {r : RegSlot} {offset size : Nat} :
    slotIsExactly r offset size = true ↔ r.offset = offset ∧ r.reg.bytes = size := by
  simp [slotIsExactly]

theorem slotTouches_iff {r : RegSlot} {offset size : Nat} :
    slotTouches r offset size = true ↔ r.offset < offset + size ∧ offset < r.offset + r.reg.bytes := by
  simp [slotTouches]

/-- An access of a whole register is to that register (R35, R360). -/
theorem busTarget_of_register {map : List RegSlot} (hmap : RegSlot.mapWf map = true) {r : RegSlot} (hr : r ∈ map) :
    busTarget map r.offset r.reg.bytes = .register r.sec r.reg := by
  have found : map.find? (fun t => slotIsExactly t r.offset r.reg.bytes) = some r := by
    cases h : map.find? (fun t => slotIsExactly t r.offset r.reg.bytes) with
    | none => exact absurd (slotIsExactly_iff.2 ⟨rfl, rfl⟩) (List.find?_eq_none.1 h r hr)
    | some r' =>
      have exactly : slotIsExactly r' r.offset r.reg.bytes = true := by simpa using List.find?_some h
      obtain ⟨hoff, hbytes⟩ := slotIsExactly_iff.1 exactly
      rw [RegSlot.eq_of_mapWf hmap hr (List.mem_of_find?_eq_some h) hoff hbytes]
  simp only [busTarget, found]

/-- An access that is exactly no register is partial or to nothing, by whether it touches one (R53, R83). -/
theorem busTarget_of_not_register {map : List RegSlot} {offset size : Nat}
    (h : ∀ r ∈ map, ¬(r.offset = offset ∧ r.reg.bytes = size)) :
    busTarget map offset size = if map.any (fun t => slotTouches t offset size) then .part else .nothing := by
  have not_found : map.find? (fun t => slotIsExactly t offset size) = none :=
    List.find?_eq_none.2 fun r hr he => h r hr (slotIsExactly_iff.1 he)
  simp only [busTarget, not_found]

theorem busTarget_of_partial {map : List RegSlot} {offset size : Nat}
    (h : ∀ r ∈ map, ¬(r.offset = offset ∧ r.reg.bytes = size))
    (ht : ∃ r ∈ map, r.offset < offset + size ∧ offset < r.offset + r.reg.bytes) :
    busTarget map offset size = .part := by
  obtain ⟨r, hr, htouch⟩ := ht
  rw [busTarget_of_not_register h, if_pos (List.any_eq_true.2 ⟨r, hr, slotTouches_iff.2 htouch⟩)]

theorem busTarget_of_untouched {map : List RegSlot} {offset size : Nat} (hsize : 0 < size)
    (h : ∀ r ∈ map, r.offset + r.reg.bytes ≤ offset ∨ offset + size ≤ r.offset) :
    busTarget map offset size = .nothing := by
  have untouched : ¬ map.any (fun t => slotTouches t offset size) = true := by
    intro hany
    obtain ⟨r, hr, htouch⟩ := List.any_eq_true.1 hany
    have := slotTouches_iff.1 htouch
    have := h r hr
    omega
  rw [busTarget_of_not_register, if_neg untouched]
  intro r hr he
  have := h r hr
  have := r.reg.bytes_pos
  omega

end Sys2Proof.Machine
end

section
/-! The statements about the register interface (46_register_interface.md). -/

namespace Sys2Proof.Machine

/-- Settles O44: the Domain is replaced, and the registry is mapped by `SetEnabled`. -/
theorem cr0WriteCascadesToControllers : Obligations.Cr0WriteCascadesToControllers := by
  unfold Obligations.Cr0WriteCascadesToControllers
  intro s d v
  refine ⟨_, rfl, rfl, rfl, ?rest, fun _ => ?memory, ?domain, fun d' hd => ?other, s.writeCr0_ctl d v⟩
  case rest => simp [State.SameRest, State.regWrite, State.writeCr0]
  case memory => simp [State.regWrite, State.writeCr0]
  case domain => simp [State.regWrite, State.writeCr0, registerMask]
  case other => simp [State.regWrite, State.writeCr0, State.setDom_dom_other s _ hd]

/-- Settles O45: what every write to CMDQ_PROD leaves, then the phase by CMDQEN. -/
theorem produceWriteStartsTheDrain : Obligations.ProduceWriteStartsTheDrain := by
  unfold Obligations.ProduceWriteStartsTheDrain
  intro s d v
  obtain ⟨hmem, hctls, hinputs, hcfg⟩ := s.writeCmdqProd_frame d (v.setWidth 32)
  refine ⟨s.writeCmdqProd d (v.setWidth 32), rfl, ?domain, fun d' hd => ?other, fun _ => by rw [hmem], hctls, hinputs,
    hcfg, ?drain⟩
  case domain => rw [State.writeCmdqProd_dom, State.setDom_dom_same]; rfl
  case other => rw [State.writeCmdqProd_dom, State.setDom_dom_other s _ hd]
  case drain =>
    cases hen : (s.dom d).cr0.getLsbD 3 with
    | true => rw [State.writeCmdqProd_of_enabled _ hen]; exact ⟨rfl, rfl⟩
    | false =>
      rw [State.writeCmdqProd_of_disabled _ hen]
      obtain ⟨hphase, hresponse, -, hrest, -⟩ := s.respond_setDom_frame d _
      exact ⟨hphase, hresponse, hrest⟩

/-- Settles O47: a read is an equation per register; a plain write replaces one field of one Domain. -/
theorem plainRegisterWritesAreReadBack : Obligations.PlainRegisterWritesAreReadBack := by
  unfold Obligations.PlainRegisterWritesAreReadBack
  intro s d D
  refine ⟨fun r v h => ?read, fun r v mask h => ?write⟩
  case read =>
    have value : s.regRead d r = v := by
      cases r <;> simp only [List.mem_cons, Prod.mk.injEq, reduceCtorEq, false_and, true_and, List.not_mem_nil,
        or_false, false_or] at h <;> subst h
      case idr0 | idr1 => exact congrArg (BitVec.setWidth 64) BitVec.and_allOnes
      all_goals rfl
    exact ⟨value, value ▸ rfl⟩
  case write =>
    have same := s.respond_setDom_dom_same d ((s.dom d).plainWrite v r) .done
    have other := fun d' hd => s.respond_setDom_dom_other (d := d) (e := d') ((s.dom d).plainWrite v r) .done hd
    have cfg : ((s.setDom d ((s.dom d).plainWrite v r)).respond .done).cfg = s.cfg := by simp
    obtain ⟨hphase, hresponse, hmem, hrest, hctls⟩ := s.respond_setDom_frame d ((s.dom d).plainWrite v r)
    refine ⟨_, congrArg _ (s.regWrite_of_plain d v h), State.regRead_plainWrite_same h same, fun d' r' hne => ?others,
      hphase, hresponse, hmem, hrest, hctls, fun d' => ?lines⟩
    case others =>
      by_cases hd : d' = d
      · subst hd
        exact State.regRead_plainWrite_other (fun hr => hne (by rw [hr])) cfg same
      · exact State.regRead_congr cfg (other d' hd) r'
    case lines =>
      by_cases hd : d' = d
      · subst hd
        rw [same]
        exact Domain.plainWrite_frame _ v r
      · rw [other d' hd]
        exact ⟨rfl, rfl, rfl⟩

/-- Settles O49: one Domain is replaced; what a write to GERRORN stores is read off by the acknowledge style. -/
theorem acknowledgeClearsTheError : Obligations.AcknowledgeClearsTheError := by
  unfold Obligations.AcknowledgeClearsTheError
  intro s d v
  refine ⟨?irqCtrl, ?gerrorn⟩
  case irqCtrl =>
    refine ⟨(s.setDom d ((s.dom d).writeIrqCtrl (v.setWidth 32))).respond .done, rfl, ?_,
      fun d' hd => State.respond_setDom_dom_other s _ _ hd, s.respond_setDom_frame d _⟩
    rw [State.respond_setDom_dom_same, Domain.writeIrqCtrl_eq]
  case gerrorn =>
    have ack := (s.dom d).writeGerrorn_ack s.cfg.ackStyle v
    have line := (s.dom d).writeGerrorn_gerrLine s.cfg.ackStyle (v.setWidth 32)
    have frame := (s.dom d).writeGerrorn_frame s.cfg.ackStyle (v.setWidth 32)
    refine ⟨(s.setDom d ((s.dom d).writeGerrorn s.cfg.ackStyle (v.setWidth 32))).respond .done, rfl, ?_⟩
    rw [State.respond_setDom_dom_same]
    refine ⟨ack, fun hstyle => ?toggleMatch, fun hstyle => ?reserved, fun hstyle hv => ?nothing, line,
      fun hack => ?acknowledged, frame, fun d' hd => State.respond_setDom_dom_other s _ _ hd,
      s.respond_setDom_frame d _⟩
    case toggleMatch => rw [hstyle, Domain.writeGerrorn_toggleMatch]
    case reserved =>
      rw [hstyle, Domain.writeGerrorn_write1]
      split
      · exact Field.set_and_of_disjoint _ _ _ (by decide)
      · rfl
    case nothing => rw [hstyle, Domain.writeGerrorn_write1, if_neg (by simpa using hv)]
    case acknowledged =>
      have agrees : (s.dom d).gerror.getLsbD 0
          = ((s.dom d).writeGerrorn s.cfg.ackStyle (v.setWidth 32)).gerrorn.getLsbD 0 := by
        rw [ack]
        rcases hack with ⟨hstyle, hv⟩ | ⟨hstyle, hv⟩
        · rw [if_pos hstyle, hv]
        · rw [hstyle, if_neg (by decide), if_pos hv]
      rw [line, ← agrees]
      exact ⟨by rw [frame], by simp⟩

/-- Settles O50: an access goes by what lies at its offset, a store by the memory laws. -/
theorem unlistedOffsetReadsZeroAndIgnoresWrites : Obligations.UnlistedOffsetReadsZeroAndIgnoresWrites := by
  unfold Obligations.UnlistedOffsetReadsZeroAndIgnoresWrites
  intro s v
  refine ⟨fun hcfg r hr => ?whole, fun offset size hsize hfree => ?none, fun offset size hno ht => ?part,
    fun a bs hlen => ?store, fun _ => rfl⟩
  case whole =>
    have target := busTarget_of_register (Config.mapWf_of_wf hcfg) hr
    rw [RegName.bytes_eq] at target
    simp only [State.perform, target, and_self]
  case none => simp only [State.perform, busTarget_of_untouched hsize hfree, and_self]
  case part => simp only [State.perform, busTarget_of_partial hno ht, and_self]
  case store =>
    exact ⟨_, rfl, Memory.readBytes_writeBytes s.mem a bs hlen, fun _ hk => Memory.read_writeBytes s.mem a bs hlen hk,
      fun _ hx => Memory.read_writeBytes_other s.mem a bs hx, rfl⟩

/-- Settles O48: each of the five arms of `regWrite` only answers. -/
theorem readOnlyRegistersIgnoreWrites : Obligations.ReadOnlyRegistersIgnoreWrites := by
  unfold Obligations.ReadOnlyRegistersIgnoreWrites
  intro s d r v h
  simp only [List.mem_cons, List.not_mem_nil, or_false] at h
  rcases h with rfl | rfl | rfl | rfl | rfl <;> rfl

end Sys2Proof.Machine
end

section
/-! SUPPORT. The reset (R431): what it leaves of each Domain and of each controller, and its frame. -/

namespace Sys2Proof.Machine

/-- Clearing SMMUEN masks bit 0 of CR0 (R36). -/
theorem smmuen_set_zero (x : BitVec 32) : RegField.smmuen.set 0#1 x = x &&& 0xFFFFFFFE#32 := by
  simp [Field.set, Field.put]

/-- `SetEnabled(0)`, with the old `Enabled` as the condition of the windows alone (R321, D23). -/
theorem Controller.setEnabled_false (cfg : Config) (c : Controller) :
    c.setEnabled cfg false =
      { c with enabled := false, win := if c.enabled && cfg.clearWindowsOnEnableChange then [] else c.win } := by
  rw [Controller.setEnabled_eq]
  cases hen : c.enabled with
  | true => rfl
  | false => cases c; cases hen; rfl

/-! ### One Domain's part of the reset -/

theorem State.resetDomain_dom_same (s : State) (d : SecurityState) :
    (s.resetDomain d).dom d = { s.dom d with cr0 := (s.dom d).cr0 &&& 0xFFFFFFFE#32 } := by
  rw [State.resetDomain, State.forDomainCtls_dom, State.setDom_dom_same, smmuen_set_zero]

theorem State.resetDomain_dom_other (s : State) {d e : SecurityState} (h : e ≠ d) :
    (s.resetDomain d).dom e = s.dom e := by
  rw [State.resetDomain, State.forDomainCtls_dom, State.setDom_dom_other s _ h]

theorem State.resetDomain_ctl (s : State) (d : SecurityState) (k : Nat) :
    Assoc.get? (s.resetDomain d).ctls k = (Assoc.get? s.ctls k).map (fun c =>
      if c.sec = d then c.setEnabled s.cfg false else c) := by
  rw [State.resetDomain, State.forDomainCtls_ctls, State.setDom_ctls, Assoc.get?_map]

theorem State.resetDomain_cfg (s : State) (d : SecurityState) : (s.resetDomain d).cfg = s.cfg := by
  rw [State.resetDomain, State.forDomainCtls_cfg, State.setDom_cfg]

/-! ### Both Domains -/

theorem State.systemReset_dom (s : State) (d : SecurityState) :
    s.systemReset.dom d = { s.dom d with cr0 := (s.dom d).cr0 &&& 0xFFFFFFFE#32 } := by
  unfold State.systemReset
  cases d with
  | secure => rw [State.resetDomain_dom_other _ (by decide), State.resetDomain_dom_same]
  | nonSecure => rw [State.resetDomain_dom_same, State.resetDomain_dom_other _ (by decide)]

/-- Each controller is disabled once, by the reset of its own Domain. -/
theorem State.systemReset_ctl (s : State) (k : Nat) :
    Assoc.get? s.systemReset.ctls k = (Assoc.get? s.ctls k).map (Controller.setEnabled s.cfg false) := by
  rw [State.systemReset, State.resetDomain_ctl, State.resetDomain_ctl, State.resetDomain_cfg, Option.map_map]
  congr 1
  funext c
  cases hsec : c.sec <;> simp [hsec]

/-- The reset leaves guest memory and what only inputs and walks change. -/
theorem State.systemReset_frame (s : State) : s.SameMemory s.systemReset ∧ s.SameRest s.systemReset := by
  simp [State.SameMemory, State.SameRest, State.systemReset, State.resetDomain]

end Sys2Proof.Machine
end

section
/-! The statements about reset (70_reset_and_hazards.md). -/

namespace Sys2Proof.Machine

/-- Settles O43: both Domains are reset in turn, and a controller belongs to exactly one of them. -/
theorem systemResetClearsEnabledOnly : Obligations.SystemResetClearsEnabledOnly := by
  unfold Obligations.SystemResetClearsEnabledOnly
  intro s
  obtain ⟨hmem, hrest⟩ := s.systemReset_frame
  refine ⟨s.systemReset.respond .done, rfl, rfl, rfl, fun d => ?domain, hmem, hrest, fun k => ?controller⟩
  case domain => rw [State.respond_dom, State.systemReset_dom]
  case controller => rw [State.respond_ctls, State.systemReset_ctl, funext (Controller.setEnabled_false s.cfg)]

end Sys2Proof.Machine
end

section
/-! SUPPORT. The decoder by the discriminant (R114, R140): the instruction with a word's discriminant and the operands that
its layout reads from the word; the operands that an encoding holds, and the bits of a word that they depend on. -/

namespace Sys2Proof

/-- A field's value depends on the field's own bits alone (R111, R112). -/
theorem Field.get_congr {w n : Nat} {f : Field w} {x y : BitVec n}
    (h : ∀ k < w, y.getLsbD (f.lo + k) = x.getLsbD (f.lo + k)) : f.get y = f.get x := by
  apply BitVec.eq_of_getLsbD_eq
  intro k hk
  simp [Field.get, hk, h k hk]

/-- Two words agree on every bit that a field of the layout names. -/
def Layout.Agree {n : Nat} (l : Layout) (x y : BitVec n) : Prop :=
  ∀ f ∈ l, ∀ k < f.2, y.getLsbD (f.1 + k) = x.getLsbD (f.1 + k)

theorem Layout.Agree.get {n w : Nat} {l : Layout} {x y : BitVec n} (h : l.Agree x y) (f : Field w) (hf : f.span ∈ l) :
    f.get y = f.get x :=
  Field.get_congr (h _ hf)

theorem Layout.Agree.flag {n : Nat} {l : Layout} {x y : BitVec n} (h : l.Agree x y) (f : Field 1) (hf : f.span ∈ l) :
    f.flag y = f.flag x :=
  congrArg (· == 1#1) (h.get f hf)

/-! ### Commands (R114 to R122) -/

/-- The command with the opcode of `i` whose operands are the fields of `x`. -/
def Instr.readCommand (i : Instr) (x : BitVec 128) : Instr :=
  match i with
  | .cmdPrefetchConfig .. =>
    .cmdPrefetchConfig (CmdField.ssec.flag x) (CmdField.ssv.flag x) (CmdField.substreamId.get x) (CmdField.streamId.get x)
  | .cmdPrefetchAddr .. =>
    .cmdPrefetchAddr (CmdField.ssec.flag x) (CmdField.ssv.flag x) (CmdField.substreamId.get x) (CmdField.streamId.get x)
      (CmdField.size.get x) (CmdField.stride.get x) (CmdField.address.get x)
  | .cmdCfgiSte .. => .cmdCfgiSte (CmdField.ssec.flag x) (CmdField.streamId.get x) (CmdField.leaf.flag x)
  | .cmdCfgiSteRange .. => .cmdCfgiSteRange (CmdField.ssec.flag x) (CmdField.streamId.get x) (CmdField.range.get x)
  | .cmdTlbiNhAll .. => all .cmdTlbiNhAll
  | .cmdTlbiNhAsid .. => all .cmdTlbiNhAsid
  | .cmdTlbiNhVa .. => va .cmdTlbiNhVa
  | .cmdTlbiNhVaa .. => va .cmdTlbiNhVaa
  | .cmdTlbiEl3All .. => all .cmdTlbiEl3All
  | .cmdTlbiEl3Va .. => va .cmdTlbiEl3Va
  | .cmdTlbiEl2All .. => all .cmdTlbiEl2All
  | .cmdTlbiEl2Asid .. => all .cmdTlbiEl2Asid
  | .cmdTlbiEl2Va .. => va .cmdTlbiEl2Va
  | .cmdTlbiEl2Vaa .. => va .cmdTlbiEl2Vaa
  | .cmdTlbiS12Vmall .. => all .cmdTlbiS12Vmall
  | .cmdTlbiS2Ipa .. => va .cmdTlbiS2Ipa
  | .cmdTlbiNsnhAll .. => all .cmdTlbiNsnhAll
  | .cmdSync .. => .cmdSync (CmdField.cs.get x) (CmdField.msiData.get x) (CmdField.msiAddress.get x)
  | .pteBlock .. | .pteTable .. | .pteInvalid00 | .pteInvalid10 => i
where
  all (make : BitVec 16 → BitVec 16 → Instr) : Instr := make (CmdField.vmid.get x) (CmdField.asid.get x)
  va (make : BitVec 16 → BitVec 16 → Bool → BitVec 52 → Instr) : Instr :=
    make (CmdField.vmid.get x) (CmdField.asid.get x) (CmdField.leaf.flag x) (CmdField.address.get x)

/-- The table lists every command under its opcode (R115). -/
theorem commandTable_lookup {i : Instr} (hi : i.format = .command) :
    commandTable.lookup i.opcode = some i.readCommand := by
  cases i
  case pteBlock | pteTable | pteInvalid00 | pteInvalid10 => cases hi
  all_goals rfl

/-- Every row of the table reads a command that has the row's opcode and whose operands are the word's fields. -/
theorem commandTable_row {op : Byte} {read : BitVec 128 → Instr} (h : (op, read) ∈ commandTable) (x : BitVec 128) :
    (read x).format = .command ∧ (read x).opcode = op ∧ (read x).readCommand x = read x := by
  have rows : ∀ e ∈ commandTable,
      (e.2 x).format = .command ∧ (e.2 x).opcode = e.1 ∧ (e.2 x).readCommand x = e.2 x := by
    simp [commandTable, Instr.format, Instr.opcode, Instr.readCommand, Instr.readCommand.all, Instr.readCommand.va]
  exact rows _ h

/-- A word with the opcode of a command is that command with the word's operands (R114). -/
theorem decodeCommandWord_of_opcode {i : Instr} {x : BitVec 128} (hi : i.format = .command)
    (hop : CmdField.opcode.get x = i.opcode) : decodeCommandWord x = .ok (i.readCommand x) := by
  simp only [decodeCommandWord, hop, commandTable_lookup hi]

/-- Everything a word that decodes says of its command. -/
theorem decodeCommandWord_eq_ok {i : Instr} {x : BitVec 128} (h : decodeCommandWord x = .ok i) :
    i.format = .command ∧ i.opcode = CmdField.opcode.get x ∧ i.readCommand x = i := by
  unfold decodeCommandWord at h
  split at h
  next read hread =>
    cases h
    obtain ⟨_, _, hrow, -⟩ := List.lookup_eq_some_iff.1 hread
    exact commandTable_row (hrow ▸ List.mem_append_cons_self) x
  next => cases h

/-- The operands of a command depend on the bits of its layout alone (R112). -/
theorem Instr.readCommand_congr {i : Instr} {x y : BitVec 128} (h : (commandLayout i).Agree x y) :
    i.readCommand y = i.readCommand x := by
  cases i <;> simp only [commandLayout] at h <;>
    simp [Instr.readCommand, Instr.readCommand.all, Instr.readCommand.va, h.get, h.flag]

/-- The opcode of a command is a field of its layout (R114). -/
theorem opcode_mem_commandLayout {i : Instr} (hi : i.format = .command) :
    CmdField.opcode.span ∈ commandLayout i := by
  cases i
  case pteBlock | pteTable | pteInvalid00 | pteInvalid10 => cases hi
  all_goals exact List.mem_cons_self

/-- The operands read from a command's encoding are its own (R111). -/
theorem Instr.readCommand_commandBits (i : Instr) : i.readCommand (commandBits i) = i := by
  cases i <;>
    simp (disch := decide) [Instr.readCommand, Instr.readCommand.all, Instr.readCommand.va, commandBits,
      commandBits.fields, commandBits.tlbi, commandBits.tlbiVa, Field.get_put_same, Field.get_put_disjoint,
      Field.get_putFlag_disjoint, Field.flag_putFlag_same, Field.flag_put_disjoint, Field.flag_putFlag_disjoint]

/-! ### Page-table entries (R140 to R142) -/

/-- The entry of the shape of `i` whose operands are the fields of `x`. -/
def Instr.readEntry (i : Instr) (x : BitVec 64) : Instr :=
  match i with
  | .pteBlock .. =>
    .pteBlock (PteField.ap.get x) (PteField.pxn.flag x) (PteField.uxn.flag x) (PteField.outputAddress.get x)
      (decodeAttrs x)
  | .pteTable .. =>
    .pteTable (PteField.ap.get x) (PteField.pxn.flag x) (PteField.uxn.flag x) (PteField.outputAddress.get x)
      (decodeAttrs x) (decodeHier x)
  | i => i

/-- A word with the kind bits of an entry is that entry with the word's operands (R140, R218). -/
theorem decodePteWord_of_kind {i : Instr} {x : BitVec 64} (hi : i.format = .pageTableEntry)
    (hkind : PteField.kind.get x = Laws.entryKind i) : decodePteWord x = i.readEntry x := by
  simp only [decodePteWord, hkind]
  cases i
  case pteBlock | pteTable | pteInvalid00 | pteInvalid10 => rfl
  all_goals cases hi

/-- Everything a word says of its entry. -/
theorem decodePteWord_spec (x : BitVec 64) :
    (decodePteWord x).format = .pageTableEntry ∧ Laws.entryKind (decodePteWord x) = PteField.kind.get x
      ∧ (decodePteWord x).readEntry x = decodePteWord x := by
  have kinds : ∀ k : BitVec 2, k ≠ 1#2 → k ≠ 3#2 → k ≠ 0#2 → 2#2 = k := by decide
  unfold decodePteWord
  dsimp only
  split_ifs with block table invalid
  · exact ⟨rfl, block.symm, rfl⟩
  · exact ⟨rfl, table.symm, rfl⟩
  · exact ⟨rfl, invalid.symm, rfl⟩
  · exact ⟨rfl, kinds _ block table invalid, rfl⟩

/-- The operands of an entry depend on the bits of its layout alone (R112). -/
theorem Instr.readEntry_congr {i : Instr} {x y : BitVec 64} (h : (pteLayout i).Agree x y) :
    i.readEntry y = i.readEntry x := by
  cases i <;> simp only [pteLayout, pteLayout.valid, List.cons_append, List.nil_append] at h <;>
    simp [Instr.readEntry, decodeAttrs, decodeHier, h.get, h.flag]

/-- The kind of an entry is a field of its layout (R140). -/
theorem kind_mem_pteLayout {i : Instr} (hi : i.format = .pageTableEntry) : PteField.kind.span ∈ pteLayout i := by
  cases i
  case pteBlock | pteTable | pteInvalid00 | pteInvalid10 => exact List.mem_cons_self
  all_goals cases hi

/-- An encoded entry has its kind in bits 1:0 (R140). -/
theorem kind_pteBits {i : Instr} (hi : i.format = .pageTableEntry) :
    PteField.kind.get (pteBits i) = Laws.entryKind i := by
  cases i
  case pteBlock => exact Laws.EncodedDiscriminant.pteBlock ..
  case pteTable => exact Laws.EncodedDiscriminant.pteTable ..
  case pteInvalid00 => exact Laws.EncodedDiscriminant.pteInvalid00
  case pteInvalid10 => exact Laws.EncodedDiscriminant.pteInvalid10
  all_goals cases hi

/-- The operands read from an entry's encoding are its own (R111). -/
theorem Instr.readEntry_pteBits (i : Instr) : i.readEntry (pteBits i) = i := by
  cases i <;>
    simp (disch := decide) [Instr.readEntry, pteBits, pteBits.leaf, decodeAttrs, decodeHier, Field.get_put_same,
      Field.get_put_disjoint, Field.get_putFlag_disjoint, Field.flag_putFlag_same, Field.flag_put_disjoint,
      Field.flag_putFlag_disjoint]

/-! ### Encoded bytes (R81, R147) -/

/-- The word that the decoder reads from the bytes of a word is that word. -/
theorem ofNat_leNat_bytesOf {n k : Nat} (x : BitVec n) (h : 2 ^ n = 256 ^ k) :
    BitVec.ofNat n (leNat (bytesOf k x.toNat)) = x := by
  rw [leNat_bytesOf_of_lt (h ▸ x.isLt), BitVec.ofNat_toNat, BitVec.setWidth_eq]

theorem decode_encode_command {i : Instr} (hi : i.format = .command) : decode .command (encode i) = .ok i := by
  rw [decode, if_pos ((Laws.length_encode i).trans (congrArg _ hi)), encode, hi]
  dsimp only
  rw [ofNat_leNat_bytesOf _ rfl, decodeCommandWord_of_opcode hi (Laws.opcode_commandBits i),
    Instr.readCommand_commandBits]

theorem decode_encode_entry {i : Instr} (hi : i.format = .pageTableEntry) :
    decode .pageTableEntry (encode i) = .ok i := by
  rw [decode, if_pos ((Laws.length_encode i).trans (congrArg _ hi)), encode, hi]
  dsimp only
  rw [ofNat_leNat_bytesOf _ rfl, decodePteWord_of_kind hi (kind_pteBits hi), Instr.readEntry_pteBits]

/-! ### The recognised opcodes (R115, R128) -/

/-- A word decodes exactly if its opcode is one of the table's. -/
theorem exists_decodeCommandWord_iff (x : BitVec 128) :
    (∃ i, decodeCommandWord x = .ok i) ↔ ∃ e ∈ commandTable, CmdField.opcode.get x = e.1 := by
  constructor
  · rintro ⟨i, h⟩
    obtain ⟨hi, hop, -⟩ := decodeCommandWord_eq_ok h
    obtain ⟨l, l', hrow, -⟩ := List.lookup_eq_some_iff.1 (commandTable_lookup hi)
    exact ⟨(i.opcode, i.readCommand), hrow ▸ List.mem_append_cons_self, hop.symm⟩
  · rintro ⟨e, hrow, hop⟩
    obtain ⟨hi, hop', -⟩ := commandTable_row hrow x
    exact ⟨_, decodeCommandWord_of_opcode hi (hop.trans hop'.symm)⟩

theorem opcode_toNat (x : BitVec 128) : (CmdField.opcode.get x).toNat = x.toNat % 256 := by
  simp [Field.get_toNat]

end Sys2Proof
end

section
/-! The statements about the encoding of commands and page-table entries (30_encoding.md). -/

namespace Sys2Proof.Machine

/-- Settles O1: by the format; the discriminant selects the layout, whose fields read back the operands. -/
theorem decodeEncodeAgree : Obligations.DecodeEncodeAgree := by
  unfold Obligations.DecodeEncodeAgree
  intro f i hwf
  obtain rfl : i.format = f := of_decide_eq_true hwf
  cases hi : i.format with
  | command => exact decode_encode_command hi
  | pageTableEntry => exact decode_encode_entry hi

/-- Settles O4: the discriminant and the operands are fields of the layout, so both words decode alike. -/
theorem decodingIgnoresUnnamedBits : Obligations.DecodingIgnoresUnnamedBits := by
  unfold Obligations.DecodingIgnoresUnnamedBits
  refine ⟨fun x y i hx agree => ?command, fun x y agree => ?entry⟩
  case command =>
    obtain ⟨hi, hop, operands⟩ := decodeCommandWord_eq_ok hx
    have hop' : CmdField.opcode.get y = i.opcode :=
      (Layout.Agree.get agree _ (opcode_mem_commandLayout hi)).trans hop.symm
    rw [decodeCommandWord_of_opcode hi hop', Instr.readCommand_congr agree, operands]
  case entry =>
    obtain ⟨hi, hkind, operands⟩ := decodePteWord_spec x
    have hkind' : PteField.kind.get y = Laws.entryKind (decodePteWord x) :=
      (Layout.Agree.get agree _ (kind_mem_pteLayout hi)).trans hkind.symm
    rw [decodePteWord_of_kind hi hkind', Instr.readEntry_congr agree, operands]

/-- Settles O9: a word decodes exactly if its low byte is an opcode of the table. -/
theorem recognisedOpcodesAreTheTable : Obligations.RecognisedOpcodesAreTheTable := by
  unfold Obligations.RecognisedOpcodesAreTheTable
  intro x
  refine ⟨?recognised, fun i h => ?opcode⟩
  case recognised =>
    rw [exists_decodeCommandWord_iff, ← opcode_toNat]
    simp [commandTable, ← BitVec.toNat_inj]
  case opcode =>
    obtain ⟨hi, hop, -⟩ := decodeCommandWord_eq_ok h
    exact ⟨hi, by rw [hop, opcode_toNat]⟩

/-- Settles O2: four closed words, by evaluation of the decoder. -/
theorem specWordsDecode : Obligations.SpecWordsDecode := by
  unfold Obligations.SpecWordsDecode
  exact ⟨rfl, rfl, rfl, rfl⟩

end Sys2Proof.Machine
end

section
/-! SUPPORT. The event record as a number (R145, R146): fields put together in rising order are the sum of their values at
their places. -/

namespace Sys2Proof

theorem Field.put_toNat {w n : Nat} (f : Field w) (v : BitVec w) (h : f.lo + w ≤ n) :
    (f.put v : BitVec n).toNat = v.toNat * 2 ^ f.lo := by
  have hv : v.toNat * 2 ^ f.lo < 2 ^ n :=
    calc v.toNat * 2 ^ f.lo < 2 ^ w * 2 ^ f.lo := Nat.mul_lt_mul_of_pos_right v.isLt (Nat.two_pow_pos _)
      _ = 2 ^ (f.lo + w) := by rw [Nat.pow_add, Nat.mul_comm]
      _ ≤ 2 ^ n := Nat.pow_le_pow_right (by decide) h
  have hw : v.toNat < 2 ^ n := lt_of_lt_of_le v.isLt (Nat.pow_le_pow_right (by decide) (by omega))
  rw [Field.put, BitVec.toNat_shiftLeft, BitVec.toNat_setWidth, Nat.mod_eq_of_lt hw, Nat.shiftLeft_eq,
    Nat.mod_eq_of_lt hv]

/-- A field put above every bit of a word adds its value at its place, and leaves the bits above it 0. -/
theorem Field.or_put_toNat {w n k : Nat} {x : BitVec n} (hx : x.toNat < 2 ^ k) (f : Field w) (v : BitVec w)
    (hk : k ≤ f.lo) (h : f.lo + w ≤ n) :
    (x ||| f.put v).toNat = x.toNat + v.toNat * 2 ^ f.lo ∧ (x ||| f.put v).toNat < 2 ^ (f.lo + w) := by
  have below : x.toNat < 2 ^ f.lo := lt_of_lt_of_le hx (Nat.pow_le_pow_right (by decide) hk)
  have put_lt : v.toNat * 2 ^ f.lo < 2 ^ (f.lo + w) := by
    rw [Nat.add_comm, Nat.pow_add]
    exact Nat.mul_lt_mul_of_pos_right v.isLt (Nat.two_pow_pos _)
  rw [BitVec.toNat_or, Field.put_toNat f v h]
  constructor
  · rw [Nat.or_comm, Nat.mul_comm, ← Nat.two_pow_add_eq_or_of_lt below, Nat.add_comm]
  · exact Nat.or_lt_two_pow (lt_of_lt_of_le below (Nat.pow_le_pow_right (by decide) (by omega))) put_lt

theorem Field.or_putFlag_toNat {n k : Nat} {x : BitVec n} (hx : x.toNat < 2 ^ k) (f : Field 1) (b : Bool)
    (hk : k ≤ f.lo) (h : f.lo + 1 ≤ n) :
    (x ||| f.putFlag b).toNat = x.toNat + b.toNat * 2 ^ f.lo ∧ (x ||| f.putFlag b).toNat < 2 ^ (f.lo + 1) := by
  rw [← BitVec.toNat_ofBool]
  exact Field.or_put_toNat hx f _ hk h

end Sys2Proof

namespace Sys2Proof.Machine

/-- The bits of an event record as a number (R145). -/
theorem Event.bits_toNat (e : Event) :
    e.bits.toNat = e.eventId.toNat + e.streamId.toNat * 2 ^ 32 + e.pnu.toNat * 2 ^ 97 + e.ind.toNat * 2 ^ 98
      + e.rnw.toNat * 2 ^ 99 + e.inputAddr.toNat * 2 ^ 128 := by
  have id : (EvtField.eventId.put e.eventId : BitVec 256).toNat = e.eventId.toNat := by
    rw [Field.put_toNat _ _ (by decide), Nat.pow_zero, Nat.mul_one]
  have id_lt : (EvtField.eventId.put e.eventId : BitVec 256).toNat < 2 ^ 8 := id ▸ e.eventId.isLt
  obtain ⟨sid, sid_lt⟩ := Field.or_put_toNat id_lt EvtField.streamId e.streamId (by decide) (by decide)
  obtain ⟨pnu, pnu_lt⟩ := Field.or_putFlag_toNat sid_lt EvtField.pnu e.pnu (by decide) (by decide)
  obtain ⟨ind, ind_lt⟩ := Field.or_putFlag_toNat pnu_lt EvtField.ind e.ind (by decide) (by decide)
  obtain ⟨rnw, rnw_lt⟩ := Field.or_putFlag_toNat ind_lt EvtField.rnw e.rnw (by decide) (by decide)
  obtain ⟨addr, -⟩ := Field.or_put_toNat rnw_lt EvtField.inputAddr e.inputAddr (by decide) (by decide)
  rw [Event.bits, addr, rnw, ind, pnu, sid, id]

/-- The bytes of an event record, read back as a number (R9). -/
theorem Event.leNat_bytes (e : Event) : leNat e.bytes = e.bits.toNat :=
  leNat_bytesOf_of_lt (lt_of_lt_of_eq e.bits.isLt rfl)

/-- The kinds that record the access (R396). -/
theorem FaultKind.recordsAccess_iff (k : FaultKind) :
    k.recordsAccess = true ↔ k ∈ [FaultKind.translation, .addrSize, .permission, .walkFetch] := by
  cases k <;> decide

/-- The identifiers of R146 as numbers. -/
theorem FaultKind.eventId_toNat (k : FaultKind) :
    k.eventId.toNat =
      if k = .badStreamId then 0x02 else if k = .steFetch then 0x03 else if k = .badSte then 0x04
      else if k = .cdFetch then 0x09 else if k = .badCd then 0x0A else if k = .walkFetch then 0x0B
      else if k = .translation then 0x10 else if k = .addrSize then 0x11 else if k = .permission then 0x13 else 0 := by
  cases k <;> rfl

end Sys2Proof.Machine
end

section
/-! The statement about the event record (30_encoding.md). -/

namespace Sys2Proof.Machine

/-- Settles O34: the record is a sum of its fields, by whether its kind records the access. -/
theorem eventRecordFields : Obligations.EventRecordFields := by
  unfold Obligations.EventRecordFields
  intro k sid va kind priv bs eventId
  refine ⟨length_bytesOf _ _, ?number⟩
  have id : k.eventId.toNat = eventId := k.eventId_toNat
  rw [Event.leNat_bytes, Event.bits_toNat, makeEvent]
  simp only [← FaultKind.recordsAccess_iff, ← id]
  split
  next => cases kind <;> simp [Nat.add_assoc]
  next => simp

end Sys2Proof.Machine
end

section
/-! SUPPORT. Invariants over the changes that a step is made of: what a register write and the reset leave, and two ways to
show that every change keeps a property, one for a property of each Domain and one for a property of each controller. -/

namespace Sys2Proof.Machine

/-! ### What a register write leaves (R360 to R373) -/

/-- A Domain after a write to one of its registers. -/
def Domain.regWrite (style : AckStyle) (D : Domain) (r : RegName) (v : BitVec 64) : Domain :=
  let w : BitVec 32 := v.setWidth 32
  match r with
  | .cr0 => { D with cr0 := w &&& registerMask .cr0 }
  | .irqCtrl => D.writeIrqCtrl w
  | .gerrorn => D.writeGerrorn style w
  | .strtabBase => { D with strtabBase := v }
  | .strtabBaseCfg => { D with strtabBaseCfg := w }
  | .cmdqBase => { D with cmdqBase := v }
  | .cmdqProd => { D with cmdqProd := w &&& registerMask .cmdqProd }
  | .cmdqCons => { D with cmdqCons := w &&& registerMask .cmdqCons }
  | .eventqBase => { D with eventqBase := v }
  | .eventqProd => { D with eventqProd := w &&& registerMask .eventqProd }
  | .eventqCons => { D with eventqCons := w &&& registerMask .eventqCons }
  | .idr0 | .idr1 | .cr0ack | .irqCtrlAck | .gerror => D

/-- A register write replaces its own Domain by the written one (R360). -/
theorem State.regWrite_dom (s : State) (d : SecurityState) (r : RegName) (v : BitVec 64) (e : SecurityState) :
    (s.regWrite d r v).dom e = (s.setDom d ((s.dom d).regWrite s.cfg.ackStyle r v)).dom e := by
  cases r
  case cr0 => simp only [State.regWrite, State.writeCr0, State.respond_dom, State.forDomainCtls_dom, Domain.regWrite]
  case cmdqProd => exact s.writeCmdqProd_dom d e _
  all_goals simp only [State.regWrite, State.respond_dom, Domain.regWrite, State.setDom_dom_self]

@[simp] theorem State.regWrite_cfg (s : State) (d : SecurityState) (r : RegName) (v : BitVec 64) :
    (s.regWrite d r v).cfg = s.cfg := by
  cases r
  case cmdqProd => exact (s.writeCmdqProd_frame d _).2.2.2
  all_goals simp [State.regWrite, State.writeCr0]

@[simp] theorem State.regWrite_mem (s : State) (d : SecurityState) (r : RegName) (v : BitVec 64) :
    (s.regWrite d r v).mem = s.mem := by
  cases r
  case cmdqProd => exact (s.writeCmdqProd_frame d _).1
  all_goals simp [State.regWrite, State.writeCr0]

/-- Only a write to CR0 reaches the controllers (R362). -/
theorem State.regWrite_ctls (s : State) (d : SecurityState) (r : RegName) (v : BitVec 64) :
    (s.regWrite d r v).ctls = if r = .cr0 then (s.writeCr0 d (v.setWidth 32)).ctls else s.ctls := by
  cases r
  case cmdqProd => exact (s.writeCmdqProd_frame d _).2.1
  all_goals simp [State.regWrite]

/-- A register write starts no walk. -/
theorem State.regWrite_phase (s : State) (d : SecurityState) (r : RegName) (v : BitVec 64) :
    (s.regWrite d r v).phase ≠ .walking := by
  cases r
  case cmdqProd =>
    simp only [State.regWrite, State.writeCmdqProd]
    split <;> simp
  all_goals simp [State.regWrite]

/-- The controllers after a write to CR0, as a map (R362). -/
theorem State.writeCr0_ctls (s : State) (d : SecurityState) (v : BitVec 32) :
    (s.writeCr0 d v).ctls = Assoc.map (fun c => if c.sec = d
      then c.setEnabled s.cfg ({ s.dom d with cr0 := v &&& registerMask .cr0 } : Domain).smmuen else c) s.ctls := by
  simp only [State.writeCr0, State.forDomainCtls_ctls, State.setDom_ctls]

/-! ### What the reset leaves (R431) -/

@[simp] theorem State.systemReset_cfg (s : State) : s.systemReset.cfg = s.cfg := by
  simp [State.systemReset, State.resetDomain]
@[simp] theorem State.systemReset_mem (s : State) : s.systemReset.mem = s.mem := by
  simp [State.systemReset, State.resetDomain]
@[simp] theorem State.systemReset_walk (s : State) : s.systemReset.walk = s.walk := by
  simp [State.systemReset, State.resetDomain]
@[simp] theorem State.systemReset_phase (s : State) : s.systemReset.phase = s.phase := by
  simp [State.systemReset, State.resetDomain]

/-- The controllers after an invalidation, as a map (R277). -/
theorem State.invalidateDomain_ctls (s : State) (d : SecurityState) (a : Option Addr) :
    (s.invalidateDomain d a).ctls = Assoc.map (fun c => if c.sec = d then c.invalidateTlb a else c) s.ctls := rfl

/-! ### Properties of each Domain -/

/-- `Q` is kept by every change that a step makes to a Domain. -/
structure DomainKeeps (Q : Domain → Prop) : Prop where
  noteOverflow : ∀ D, Q D → Q D.noteOverflow
  recordEvent : ∀ cfg D n, Q D → Q { D.advanceWr cfg with evtqPulses := n }
  cacheSte : ∀ D sid ste, Q D → Q { D with steCache := Assoc.set D.steCache sid ste }
  eraseStes : ∀ D p, Q D → Q { D with steCache := Assoc.eraseIf p D.steCache }
  advanceRd : ∀ cfg D, Q D → Q (D.advanceRd cfg)
  takeCommandError : ∀ cfg D r, Q D → Q (D.takeCommandError cfg r)
  regWrite : ∀ style D r v, Q D → Q (D.regWrite style r v)
  clearSmmuen : ∀ D, Q D → Q { D with cr0 := RegField.smmuen.set 0#1 D.cr0 }

/-- `Q` holds of both Domains. -/
def State.Domains (Q : Domain → Prop) (s : State) : Prop := ∀ d, Q (s.dom d)

section
variable {Q : Domain → Prop} {s t : State}

theorem State.Domains.congr (h : s.Domains Q) (h1 : t.secure = s.secure := by rfl)
    (h2 : t.nonSecure = s.nonSecure := by rfl) : t.Domains Q
  | .secure => show Q t.secure from h1 ▸ h .secure
  | .nonSecure => show Q t.nonSecure from h2 ▸ h .nonSecure

theorem State.Domains.setDom (h : s.Domains Q) (d : SecurityState) {D : Domain} (hD : Q D) :
    (s.setDom d D).Domains Q := by
  intro e
  by_cases he : e = d
  · rw [he, State.setDom_dom_same]
    exact hD
  · rw [State.setDom_dom_other _ _ he]
    exact h e

theorem DomainKeeps.signalEvent (k : DomainKeeps Q) (h : s.Domains Q) (d : SecurityState) (e : Event) (b : Bool) :
    (s.signalEvent d e b).Domains Q := by
  rcases s.signalEvent_cases d e b with ⟨-, hs⟩ | ⟨-, -, hs⟩ | ⟨-, -, -, hs⟩ | ⟨-, -, -, hs⟩ <;> rw [hs]
  · exact h
  · exact h.setDom d (k.noteOverflow _ (h d))
  · exact h
  · exact State.Domains.setDom h.congr d (k.recordEvent _ _ _ (h d))

theorem DomainKeeps.resetDomain (k : DomainKeeps Q) (h : s.Domains Q) (d : SecurityState) :
    (s.resetDomain d).Domains Q :=
  (h.setDom d (k.clearSmmuen _ (h d))).congr

/-- A property that every change to a Domain keeps holds of both Domains after every step, if it does before. -/
theorem DomainKeeps.keeps (k : DomainKeeps Q) : Keeps (State.Domains Q) where
  respond _ _ h := h.congr
  signalEvent _ d e b h := k.signalEvent h d e b
  addWindow _ _ _ _ h := h.congr
  setSkipped _ _ _ h := h.congr
  cacheSte _ d sid ste h := h.setDom d (k.cacheSte _ sid.toNat ste (h d))
  beginWalk _ _ _ _ h := h.congr
  descend _ _ _ h := h.congr
  eraseStes _ d p h := h.setDom d (k.eraseStes _ p (h d))
  invalidateDomain _ _ _ h := h.congr
  advance _ d h := h.setDom d (k.advanceRd _ _ (h d))
  fail _ d r h := h.setDom d (k.takeCommandError _ _ r (h d))
  inputs _ _ h := h.congr
  response _ _ h := h.congr
  freeCount _ _ h := h.congr
  store _ _ _ h := h.congr
  failing _ _ h := h.congr
  register _ _ _ h := h.congr
  unregister _ _ h := h.congr
  regWrite s d r v h e := s.regWrite_dom d r v e ▸ h.setDom d (k.regWrite _ _ r v (h d)) e
  systemReset _ h := k.resetDomain (k.resetDomain h _) _

end

/-! ### Properties of each controller -/

/-- `R` is kept by every change that a step makes to a controller, under the configuration, the two `Enabled` of the
Domains and the key of the registry. -/
structure ControllerKeeps (R : Config → (SecurityState → Bool) → Nat → Controller → Prop) : Prop where
  addWindow : ∀ cfg enabled k c w, (cfg.maxLevel ≤ 3 → w.wf = true) → R cfg enabled k c →
    R cfg enabled k (Controller.addWindow w c)
  setSkipped : ∀ cfg enabled k c b, R cfg enabled k c → R cfg enabled k (Controller.setSkipped b c)
  invalidateTlb : ∀ cfg enabled k c a, R cfg enabled k c → R cfg enabled k (c.invalidateTlb a)
  /-- a change of one Domain's `Enabled` cascades to its controllers -/
  setEnabled : ∀ cfg enabled k c d b, R cfg enabled k c →
    R cfg (fun e => if e = d then b else enabled e) k (if c.sec = d then c.setEnabled cfg b else c)
  register : ∀ cfg enabled sid, R cfg enabled sid.toNat
    { sid := sid, sec := streamSec cfg sid, backend := backendOf cfg sid, enabled := enabled (streamSec cfg sid),
      win := [], skipped := false }

/-- The two `Enabled` of the Domains (R36). -/
def State.enables (s : State) : SecurityState → Bool := fun d => (s.dom d).smmuen

/-- `R` holds of every controller of the registry. -/
def State.Controllers (R : Config → (SecurityState → Bool) → Nat → Controller → Prop) (s : State) : Prop :=
  ∀ e ∈ s.ctls, R s.cfg s.enables e.1 e.2

/-- A Domain replaced by one with the same CR0. -/
theorem State.enables_setDom_of_cr0 {s : State} {d : SecurityState} {D : Domain} (h : D.cr0 = (s.dom d).cr0) :
    (s.setDom d D).enables = s.enables := by
  funext e
  unfold State.enables
  by_cases he : e = d
  · rw [he, State.setDom_dom_same, Domain.smmuen, h, Domain.smmuen]
  · rw [State.setDom_dom_other _ _ he]

theorem State.enables_setDom (s : State) (d : SecurityState) (D : Domain) :
    (s.setDom d D).enables = fun e => if e = d then D.smmuen else s.enables e := by
  funext e
  unfold State.enables
  by_cases he : e = d
  · rw [if_pos he, he, State.setDom_dom_same]
  · rw [if_neg he, State.setDom_dom_other _ _ he]

theorem State.enables_signalEvent (s : State) (d : SecurityState) (e : Event) (b : Bool) :
    (s.signalEvent d e b).enables = s.enables := by
  funext d'
  rw [State.enables, State.signalEvent_dom]
  rfl

/-- A write to any register but CR0 leaves CR0. -/
theorem Domain.regWrite_cr0 (style : AckStyle) (D : Domain) {r : RegName} (v : BitVec 64) (hr : r ≠ .cr0) :
    (D.regWrite style r v).cr0 = D.cr0 := by
  cases r
  case cr0 => exact absurd rfl hr
  case gerrorn => exact (congrArg Domain.cr0 (D.writeGerrorn_eq_refresh style (v.setWidth 32)) :)
  all_goals rfl

section
variable {R : Config → (SecurityState → Bool) → Nat → Controller → Prop} {s t : State}

theorem State.Controllers.congr (h : s.Controllers R) (h1 : t.ctls = s.ctls) (h2 : t.cfg = s.cfg)
    (h3 : t.enables = s.enables) : t.Controllers R := by
  unfold State.Controllers
  rw [h1, h2, h3]
  exact h

/-- One controller of the registry changes. -/
theorem State.Controllers.modifyCtl (h : s.Controllers R) (sid : StreamId) {f : Controller → Controller}
    (hf : ∀ k c, R s.cfg s.enables k c → R s.cfg s.enables k (f c)) : (s.modifyCtl sid f).Controllers R := by
  intro e he
  obtain ⟨e', hmem, hkey, hval⟩ := Assoc.mem_modify he
  rw [hkey]
  rcases hval with hval | hval <;> rw [hval]
  · exact h e' hmem
  · exact hf _ _ (h e' hmem)

/-- Every controller changes, and the `Enabled` of the Domains may. -/
theorem State.Controllers.map (h : s.Controllers R) {f : Controller → Controller} (ht : t.ctls = Assoc.map f s.ctls)
    (hcfg : t.cfg = s.cfg) (hf : ∀ k c, R s.cfg s.enables k c → R s.cfg t.enables k (f c)) : t.Controllers R := by
  intro e he
  rw [ht] at he
  obtain ⟨e', hmem, rfl⟩ := Assoc.mem_map he
  rw [hcfg]
  exact hf _ _ (h e' hmem)

/-- A Domain gets a new CR0, which cascades to its controllers (R362, R431). -/
theorem ControllerKeeps.cascade (k : ControllerKeeps R) (h : s.Controllers R) (d : SecurityState) (D : Domain) {b : Bool}
    (hb : D.smmuen = b) : ((s.setDom d D).forDomainCtls d (Controller.setEnabled s.cfg b)).Controllers R := by
  refine h.map (f := fun c => if c.sec = d then c.setEnabled s.cfg b else c) (by simp) (by simp) fun key c hc => ?_
  have enables : ((s.setDom d D).forDomainCtls d (Controller.setEnabled s.cfg b)).enables
      = fun e => if e = d then b else s.enables e := hb ▸ s.enables_setDom d D
  rw [enables]
  exact k.setEnabled _ _ _ _ d b hc

theorem ControllerKeeps.resetDomain (k : ControllerKeeps R) (h : s.Controllers R) (d : SecurityState) :
    (s.resetDomain d).Controllers R :=
  k.cascade h d _ (Field.flag_set_same RegField.smmuen false _ (by decide))

theorem ControllerKeeps.regWrite (k : ControllerKeeps R) (h : s.Controllers R) (d : SecurityState) (r : RegName)
    (v : BitVec 64) : (s.regWrite d r v).Controllers R := by
  by_cases hr : r = .cr0
  · subst hr
    exact (k.cascade h d _ rfl).congr rfl rfl rfl
  · refine h.congr (by rw [State.regWrite_ctls, if_neg hr]) (by simp) ?_
    rw [← State.enables_setDom_of_cr0 (Domain.regWrite_cr0 s.cfg.ackStyle (s.dom d) v hr)]
    funext e
    rw [State.enables, State.regWrite_dom]
    rfl

theorem State.Controllers.register (h : s.Controllers R) (k : ControllerKeeps R) (sid : StreamId) :
    (s.register sid).Controllers R := by
  intro e he
  rcases Assoc.mem_set he with rfl | he
  · exact k.register s.cfg s.enables sid
  · exact h e he

theorem State.Controllers.invalidateDomain (h : s.Controllers R) (k : ControllerKeeps R) (d : SecurityState)
    (a : Option Addr) : (s.invalidateDomain d a).Controllers R := by
  refine h.map (f := fun c => if c.sec = d then c.invalidateTlb a else c) rfl rfl fun key c hc => ?_
  split
  · exact k.invalidateTlb _ _ _ _ a hc
  · exact hc

/-- A property that every change to a controller keeps holds of every controller after every step, if it does before. -/
theorem ControllerKeeps.keeps (k : ControllerKeeps R) : Keeps (State.Controllers R) where
  respond _ _ h := h.congr rfl rfl rfl
  signalEvent s d e b h := h.congr (by simp) (by simp) (s.enables_signalEvent d e b)
  addWindow _ sid w hw h := h.modifyCtl sid fun _ _ => k.addWindow _ _ _ _ w hw
  setSkipped _ sid b h := h.modifyCtl sid fun _ _ => k.setSkipped _ _ _ _ b
  cacheSte _ _ _ _ h := h.congr (by simp) (by simp) (State.enables_setDom_of_cr0 rfl)
  beginWalk _ _ _ _ h := h.congr rfl rfl rfl
  descend _ _ _ h := h.congr rfl rfl rfl
  eraseStes _ _ _ h := h.congr (by simp) (by simp) (State.enables_setDom_of_cr0 rfl)
  invalidateDomain _ d a h := h.invalidateDomain k d a
  advance _ _ h := h.congr (by simp) (by simp) (State.enables_setDom_of_cr0 rfl)
  fail _ _ _ h := h.congr (by simp) (by simp)
    (State.enables_setDom_of_cr0 (by rw [Domain.takeCommandError_eq]))
  inputs _ _ h := h.congr rfl rfl rfl
  response _ _ h := h.congr rfl rfl rfl
  freeCount _ _ h := h.congr rfl rfl rfl
  store _ _ _ h := h.congr rfl rfl rfl
  failing _ _ h := h.congr rfl rfl rfl
  register _ sid _ h := h.register k sid
  unregister _ _ h _ he := h _ (Assoc.mem_eraseIf (State.unregister_ctls .. ▸ he))
  regWrite _ d r v h := k.regWrite h d r v
  systemReset _ h := k.resetDomain (k.resetDomain h _) _

end

end Sys2Proof.Machine
end

section
/-! SUPPORT. The invariants of the statements: each as a property that every change of a step keeps. -/

namespace Sys2Proof.Machine

/-! ### The error lines (R59) -/

/-- Every change to a Domain leaves its line at the level that the registers give. -/
theorem lineRight_keeps : DomainKeeps (fun D => D.gerrLine = D.gerrLevel) where
  noteOverflow D h := by
    rw [D.noteOverflow_eq]
    exact h
  recordEvent _ _ _ h := h
  cacheSte _ _ _ h := h
  eraseStes _ _ h := h
  advanceRd _ _ h := h
  takeCommandError cfg D r _ := D.takeCommandError_gerrLine cfg r
  clearSmmuen _ h := h
  regWrite style D r v h := by
    cases r
    case irqCtrl => rfl
    case gerrorn =>
      rw [Domain.regWrite, Domain.writeGerrorn_eq_refresh]
      rfl
    all_goals exact h

theorem State.linesRight_iff (s : State) : s.linesRight = true ↔ s.Domains (fun D => D.gerrLine = D.gerrLevel) := by
  simp only [State.linesRight, Domain.lineRight_eq, Bool.and_eq_true, beq_iff_eq]
  constructor
  · rintro ⟨hs, hn⟩ (_ | _)
    · exact hs
    · exact hn
  · exact fun h => ⟨h .secure, h .nonSecure⟩

/-! ### Reserved register bits (R361) -/

/-- The value of a 32-bit register has no bit that is no field. -/
def FieldsOnly (r : RegName) (x : BitVec 32) : Prop := x &&& ~~~registerMask r = 0#32

theorem fieldsOnly_masked (r : RegName) (v : BitVec 32) : FieldsOnly r (v &&& registerMask r) := by
  rw [FieldsOnly, BitVec.and_assoc, BitVec.and_not_self]
  exact BitVec.and_zero

/-- A field of the register is written. -/
theorem FieldsOnly.set {r : RegName} {x : BitVec 32} (h : FieldsOnly r x) {w : Nat} (f : Field w) (v : BitVec w)
    (hf : (f.put (BitVec.allOnes w) : BitVec 32) &&& ~~~registerMask r = 0#32) : FieldsOnly r (f.set v x) := by
  rw [FieldsOnly, Field.set_and_of_disjoint f v x hf]
  exact h

/-- None of the eight masked registers of a Domain holds a reserved bit. -/
structure Domain.FieldsOnly (D : Domain) : Prop where
  cr0 : Machine.FieldsOnly .cr0 D.cr0
  irqCtrl : Machine.FieldsOnly .irqCtrl D.irqCtrl
  gerror : Machine.FieldsOnly .gerror D.gerror
  gerrorn : Machine.FieldsOnly .gerrorn D.gerrorn
  cmdqProd : Machine.FieldsOnly .cmdqProd D.cmdqProd
  cmdqCons : Machine.FieldsOnly .cmdqCons D.cmdqCons
  eventqProd : Machine.FieldsOnly .eventqProd D.eventqProd
  eventqCons : Machine.FieldsOnly .eventqCons D.eventqCons

theorem Domain.reservedZero_iff (D : Domain) : D.reservedZero = true ↔ D.FieldsOnly := by
  rw [Domain.reservedZero_eq]
  simp only [Bool.and_eq_true, beq_iff_eq]
  constructor
  · rintro ⟨⟨⟨⟨⟨⟨⟨h1, h2⟩, h3⟩, h4⟩, h5⟩, h6⟩, h7⟩, h8⟩
    exact ⟨h1, h2, h3, h4, h5, h6, h7, h8⟩
  · rintro ⟨h1, h2, h3, h4, h5, h6, h7, h8⟩
    exact ⟨⟨⟨⟨⟨⟨⟨h1, h2⟩, h3⟩, h4⟩, h5⟩, h6⟩, h7⟩, h8⟩

theorem Domain.FieldsOnly.noteOverflow {D : Domain} (h : D.FieldsOnly) : D.noteOverflow.FieldsOnly := by
  unfold Domain.noteOverflow
  split
  · exact h
  · exact { h with eventqProd := h.eventqProd.set _ _ (by decide) }

theorem Domain.FieldsOnly.takeCommandError {D : Domain} (h : D.FieldsOnly) (cfg : Config) (r : CmdError) :
    (D.takeCommandError cfg r).FieldsOnly := by
  have flag : Machine.FieldsOnly .gerror (D.takeCommandError cfg r).gerror := by
    rw [Domain.takeCommandError_gerror]
    split
    · exact h.gerror
    · exact h.gerror.set _ _ (by decide)
  rw [Domain.takeCommandError_eq]
  exact { h with cmdqCons := h.cmdqCons.set _ _ (by decide), gerror := flag }

theorem Domain.FieldsOnly.writeGerrorn {D : Domain} (h : D.FieldsOnly) (style : AckStyle) (v : BitVec 32) :
    (D.writeGerrorn style v).FieldsOnly := by
  have flag : Machine.FieldsOnly .gerrorn (D.writeGerrorn style v).gerrorn := by
    cases style with
    | toggleMatch => exact fieldsOnly_masked .gerrorn v
    | write1 =>
      rw [Domain.writeGerrorn_write1]
      split
      · exact h.gerrorn.set _ _ (by decide)
      · exact h.gerrorn
  rw [Domain.writeGerrorn_frame]
  exact { h with gerrorn := flag }

theorem Domain.FieldsOnly.regWrite {D : Domain} (h : D.FieldsOnly) (style : AckStyle) (r : RegName) (v : BitVec 64) :
    (D.regWrite style r v).FieldsOnly := by
  cases r
  case cr0 => exact { h with cr0 := fieldsOnly_masked _ _ }
  case irqCtrl => exact { h with irqCtrl := fieldsOnly_masked _ _ }
  case gerrorn => exact h.writeGerrorn _ _
  case cmdqProd => exact { h with cmdqProd := fieldsOnly_masked _ _ }
  case cmdqCons => exact { h with cmdqCons := fieldsOnly_masked _ _ }
  case eventqProd => exact { h with eventqProd := fieldsOnly_masked _ _ }
  case eventqCons => exact { h with eventqCons := fieldsOnly_masked _ _ }
  all_goals exact { h with }

/-- Every change to a Domain stores fields only. -/
theorem fieldsOnly_keeps : DomainKeeps Domain.FieldsOnly where
  noteOverflow _ h := h.noteOverflow
  recordEvent _ _ _ h := { h with eventqProd := h.eventqProd.set _ _ (by decide) }
  cacheSte _ _ _ h := { h with }
  eraseStes _ _ h := { h with }
  advanceRd _ _ h := { h with cmdqCons := h.cmdqCons.set _ _ (by decide) }
  takeCommandError cfg _ r h := h.takeCommandError cfg r
  regWrite style _ r v h := h.regWrite style r v
  clearSmmuen _ h := { h with cr0 := h.cr0.set _ _ (by decide) }

theorem State.reservedZero_iff (s : State) : s.reservedZero = true ↔ s.Domains Domain.FieldsOnly := by
  simp only [State.reservedZero, Bool.and_eq_true, Domain.reservedZero_iff]
  constructor
  · rintro ⟨hs, hn⟩ (_ | _)
    · exact hs
    · exact hn
  · exact fun h => ⟨h .secure, h .nonSecure⟩

/-! ### The controllers' `Enabled` (R56) -/

/-- Every change to a controller leaves its `Enabled` as its Domain's: CR0 writes and the reset cascade, and a fresh
controller starts with it. -/
theorem enabledAgrees_keeps : ControllerKeeps (fun _ enabled _ c => c.enabled = enabled c.sec) where
  addWindow _ _ _ c w _ h := by simpa using h
  setSkipped _ _ _ _ _ h := h
  invalidateTlb _ _ _ c a h := by simpa using h
  setEnabled cfg enabled _ c d b h := by
    by_cases hd : c.sec = d
    · simp [hd]
    · simpa [hd] using h
  register _ _ _ := rfl

theorem State.enabledAgrees_iff (s : State) :
    s.enabledAgrees = true ↔ s.Controllers (fun _ enabled _ c => c.enabled = enabled c.sec) := by
  rw [State.enabledAgrees_eq]
  simp only [List.all_eq_true, beq_iff_eq]
  rfl

/-! ### Windows (R60) -/

/-- Every window that a controller gets is well-formed, with levels that fit 64 bits (log 12). -/
theorem windowsWf_keeps : ControllerKeeps (fun cfg _ _ c => cfg.maxLevel ≤ 3 → ∀ w ∈ c.win, w.wf = true) where
  addWindow _ _ _ c w hw h hc := by
    unfold Controller.addWindow
    split
    · exact h hc
    · exact List.forall_mem_append.2 ⟨h hc, List.forall_mem_singleton.2 (hw hc)⟩
  setSkipped _ _ _ _ _ h := h
  invalidateTlb _ _ _ c a h hc w hmem := by
    cases a with
    | none => cases hmem
    | some va => exact h hc w (List.mem_of_mem_filter hmem)
  setEnabled cfg _ _ c d b h hc w hmem := by
    refine h hc w ?_
    revert hmem
    rw [Controller.setEnabled_eq]
    split_ifs <;> simp
  register _ _ _ _ w hmem := by cases hmem

theorem State.windowsWf_iff {s : State} (hc : s.cfg.wf = true) :
    s.windowsWf = true ↔ s.Controllers (fun cfg _ _ c => cfg.maxLevel ≤ 3 → ∀ w ∈ c.win, w.wf = true) := by
  have hmax : s.cfg.maxLevel ≤ 3 := by simp_all [Config.wf]
  rw [State.windowsWf_eq]
  simp only [List.all_eq_true, State.Controllers, hmax, forall_const]

/-! ### The caches and the registry as maps (R55, R56) -/

/-- Every change to a Domain leaves its STE cache a map. -/
theorem steCacheSorted_keeps : DomainKeeps (fun D => Assoc.sorted D.steCache = true) where
  noteOverflow D h := by
    rw [D.noteOverflow_eq]
    exact h
  recordEvent _ _ _ h := h
  cacheSte _ sid ste h := Assoc.sorted_set sid ste h
  eraseStes _ p h := Assoc.sorted_eraseIf p h
  advanceRd _ _ h := h
  takeCommandError cfg D r h := by
    rw [D.takeCommandError_eq]
    exact h
  clearSmmuen _ h := h
  regWrite style D r v h := by
    cases r
    case gerrorn =>
      rw [Domain.regWrite, Domain.writeGerrorn_frame]
      exact h
    all_goals exact h

/-- Every change to a controller leaves its stream id. -/
theorem keyIsSid_keeps : ControllerKeeps (fun _ _ k c => k = c.sid.toNat) where
  addWindow _ _ _ c w _ h := by simpa using h
  setSkipped _ _ _ _ _ h := h
  invalidateTlb _ _ _ c a h := by simpa using h
  setEnabled _ _ _ c d b h := by
    split
    · simpa using h
    · exact h
  register _ _ _ := rfl

/-- Every change of a step leaves the registry a map. -/
theorem ctlsSorted_keeps : Keeps (fun s => Assoc.sorted s.ctls = true) where
  respond _ _ h := h
  signalEvent _ _ _ _ h := by simpa using h
  addWindow _ _ _ _ h := Assoc.sorted_modify _ _ h
  setSkipped _ _ _ h := Assoc.sorted_modify _ _ h
  cacheSte _ _ _ _ h := by simpa using h
  beginWalk _ _ _ _ h := h
  descend _ _ _ h := h
  eraseStes _ _ _ h := by simpa using h
  invalidateDomain s d a h := s.invalidateDomain_ctls d a ▸ Assoc.sorted_map _ h
  advance _ _ h := by simpa using h
  fail _ _ _ h := by simpa using h
  inputs _ _ h := h
  response _ _ h := h
  freeCount _ _ h := h
  store _ _ _ h := h
  failing _ _ h := h
  register _ _ _ h := Assoc.sorted_set _ _ h
  unregister _ _ h := Assoc.sorted_erase _ h
  regWrite s d r v h := by
    rw [State.regWrite_ctls]
    split
    · exact s.writeCr0_ctls d _ ▸ Assoc.sorted_map _ h
    · exact h
  systemReset s h := by
    simp only [State.systemReset, State.resetDomain, State.forDomainCtls_ctls, State.setDom_ctls]
    exact Assoc.sorted_map _ (Assoc.sorted_map _ h)

theorem State.mapsWf_iff (s : State) : s.mapsWf = true ↔
    s.Domains (fun D => Assoc.sorted D.steCache = true) ∧ Assoc.sorted s.ctls = true
      ∧ s.Controllers (fun _ _ k c => k = c.sid.toNat) := by
  simp only [State.mapsWf, Bool.and_eq_true, List.all_eq_true, beq_iff_eq, and_assoc]
  constructor
  · rintro ⟨hs, hn, hctls, hkeys⟩
    refine ⟨?_, hctls, hkeys⟩
    rintro (_ | _)
    · exact hs
    · exact hn
  · rintro ⟨h, hctls, hkeys⟩
    exact ⟨h .secure, h .nonSecure, hctls, hkeys⟩

/-! ### Guest memory (log 5) -/

/-- `SignalEvent` stores the event's bytes, or nothing. -/
theorem State.signalEvent_mem (s : State) (d : SecurityState) (e : Event) (b : Bool) :
    (s.signalEvent d e b).mem = s.mem ∨ ∃ a bs, (s.signalEvent d e b).mem = Memory.writeBytes s.mem a bs := by
  rcases s.signalEvent_cases d e b with ⟨-, h⟩ | ⟨-, -, h⟩ | ⟨-, -, -, h⟩ | ⟨-, -, -, h⟩ <;> rw [h]
  · exact .inl rfl
  · exact .inl (by simp)
  · exact .inl rfl
  · exact .inr ⟨_, _, State.setDom_mem ..⟩

/-- Every change of a step leaves guest memory canonical: memory changes by stores alone. -/
theorem memoryCanonical_keeps : Keeps (fun s => Memory.wf s.mem = true) where
  respond _ _ h := h
  signalEvent s d e b h := by
    rcases s.signalEvent_mem d e b with hm | ⟨a, bs, hm⟩ <;> rw [hm]
    · exact h
    · exact Memory.wf_writeBytes a bs h
  addWindow _ _ _ _ h := h
  setSkipped _ _ _ h := h
  cacheSte _ _ _ _ h := by simpa using h
  beginWalk _ _ _ _ h := h
  descend _ _ _ h := h
  eraseStes _ _ _ h := by simpa using h
  invalidateDomain _ _ _ h := h
  advance _ _ h := by simpa using h
  fail _ _ _ h := by simpa using h
  inputs _ _ h := h
  response _ _ h := h
  freeCount _ _ h := h
  store _ a bs h := Memory.wf_writeBytes a bs h
  failing _ _ h := h
  register _ _ _ h := h
  unregister _ _ h := h
  regWrite _ _ _ _ h := by simpa using h
  systemReset _ h := by simpa using h

/-! ### The levels of a walk (R211, R230) -/

/-- A walk begins at the start level, and goes down from a level below the last one alone. -/
theorem walkInRange_keeps : Keeps (fun s =>
    s.cfg.startLevel ≤ s.cfg.maxLevel ∧ (s.phase = .walking → s.walk.level ≤ s.cfg.maxLevel)) where
  respond _ _ h := ⟨h.1, fun hp => nomatch hp⟩
  signalEvent _ _ _ _ h := by simpa using h
  addWindow _ _ _ _ h := h
  setSkipped _ _ _ h := h
  cacheSte _ _ _ _ h := by simpa using h
  beginWalk _ _ _ _ h := ⟨h.1, fun _ => h.1⟩
  descend _ _ hl h := ⟨h.1, fun _ => hl⟩
  eraseStes _ _ _ h := by simpa using h
  invalidateDomain _ _ _ h := h
  advance _ _ h := by simpa using h
  fail _ _ _ h := by simpa using h
  inputs _ _ h := h
  response _ _ h := h
  freeCount _ _ h := h
  store _ _ _ h := h
  failing _ _ h := h
  register _ _ _ h := h
  unregister _ _ h := h
  regWrite s d r v h := ⟨by simpa using h.1, fun hp => absurd hp (s.regWrite_phase d r v)⟩
  systemReset _ h := by simpa using h

/-! ### The parameters (R8) -/

/-- No change of a step reaches the configuration. -/
theorem cfg_keeps (cfg : Config) : Keeps (fun s => s.cfg = cfg) where
  respond _ _ h := h
  signalEvent _ _ _ _ h := by simpa using h
  addWindow _ _ _ _ h := h
  setSkipped _ _ _ h := h
  cacheSte _ _ _ _ h := by simpa using h
  beginWalk _ _ _ _ h := h
  descend _ _ _ h := h
  eraseStes _ _ _ h := by simpa using h
  invalidateDomain _ _ _ h := h
  advance _ _ h := by simpa using h
  fail _ _ _ h := by simpa using h
  inputs _ _ h := h
  response _ _ h := h
  freeCount _ _ h := h
  store _ _ _ h := h
  failing _ _ h := h
  register _ _ _ h := h
  unregister _ _ h := h
  regWrite _ _ _ _ h := by simpa using h
  systemReset _ h := by simpa using h

theorem step_cfg {s t : State} (h : step s = .next t) : t.cfg = s.cfg := (cfg_keeps s.cfg).step rfl h

/-! ### Faults (R424) -/

/-- An instruction always has a next state. -/
theorem exec_next (i : Instr) (s : State) : ∃ t, exec i s = .next t := by
  cases hi : i.format with
  | command => exact ⟨_, exec_command hi s⟩
  | pageTableEntry => exact ⟨_, exec_entry hi s⟩

theorem perform_safe (s : State) (i : Input) : Safe (s.perform i) = true := by
  cases i
  case busRead | busWrite | access | attach | detach => simp only [State.perform]; split <;> rfl
  all_goals rfl

theorem exec_safe (i : Instr) (s : State) : Safe (exec i s) = true := by
  obtain ⟨t, h⟩ := exec_next i s
  rw [h]
  rfl

theorem stepDrain_safe (s : State) : Safe (stepDrain s) = true := by
  unfold stepDrain
  split
  · rfl
  · rfl
  · split
    · exact exec_safe _ _
    · rfl

theorem stepWalk_safe (s : State) : Safe (stepWalk s) = true := by
  unfold stepWalk
  split
  · rfl
  · split
    · rfl
    · split
      · exact exec_safe _ _
      · rfl

theorem step_safe (s : State) : Safe (step s) = true := by
  unfold step
  split
  · exact stepDrain_safe s
  · exact stepWalk_safe s
  · split
    · rfl
    · exact perform_safe _ _

end Sys2Proof.Machine
end

section
/-! The statements about what every step keeps, and about the state after reset. -/

namespace Sys2Proof.Machine

/-- Settles O51: every change of a step keeps memory canonical. -/
theorem stepKeepsMemoryCanonical : Obligations.StepKeepsMemoryCanonical := by
  unfold Obligations.StepKeepsMemoryCanonical
  exact fun s t h ht => memoryCanonical_keeps.step h ht

/-- Settles O52: the line's level is an invariant of each Domain. -/
theorem stepKeepsErrorLinesRight : Obligations.StepKeepsErrorLinesRight := by
  unfold Obligations.StepKeepsErrorLinesRight
  intro s t h ht
  rw [State.linesRight_iff] at h ⊢
  exact lineRight_keeps.keeps.step h ht

/-- Settles O53: the agreement with the Domain is an invariant of each controller. -/
theorem stepKeepsEnabledFlags : Obligations.StepKeepsEnabledFlags := by
  unfold Obligations.StepKeepsEnabledFlags
  intro s t h ht
  rw [State.enabledAgrees_iff] at h ⊢
  exact enabledAgrees_keeps.keeps.step h ht

/-- Settles O54: storing fields only is an invariant of each Domain. -/
theorem stepKeepsReservedBitsZero : Obligations.StepKeepsReservedBitsZero := by
  unfold Obligations.StepKeepsReservedBitsZero
  intro s t h ht
  rw [State.reservedZero_iff] at h ⊢
  exact fieldsOnly_keeps.keeps.step h ht

/-- Settles O55: well-formed windows are an invariant of each controller. -/
theorem stepKeepsWindowsWellFormed : Obligations.StepKeepsWindowsWellFormed := by
  unfold Obligations.StepKeepsWindowsWellFormed
  intro s t hc h ht
  rw [State.windowsWf_iff hc] at h
  rw [State.windowsWf_iff (step_cfg ht ▸ hc)]
  exact windowsWf_keeps.keeps.step h ht

/-- Settles O56: an invariant of each Domain, one of the registry's order, and one of each controller. -/
theorem stepKeepsMapsWellFormed : Obligations.StepKeepsMapsWellFormed := by
  unfold Obligations.StepKeepsMapsWellFormed
  intro s t h ht
  rw [State.mapsWf_iff] at h ⊢
  obtain ⟨hcaches, hctls, hkeys⟩ := h
  exact ⟨steCacheSorted_keeps.keeps.step hcaches ht, ctlsSorted_keeps.step hctls ht,
    keyIsSid_keeps.keeps.step hkeys ht⟩

/-- Settles O57: with a legal start level the walk's range is kept by every change. -/
theorem stepKeepsWalkInRange : Obligations.StepKeepsWalkInRange := by
  unfold Obligations.StepKeepsWalkInRange
  intro s t hc h ht
  have hstart : s.cfg.startLevel ≤ s.cfg.maxLevel := by simp_all [Config.wf]
  exact decide_eq_true (walkInRange_keeps.step ⟨hstart, of_decide_eq_true h⟩ ht).2

/-- Settles O59: no part of a step faults, and no change of it reaches the parameters. -/
theorem stepNeverFaultsNorChangesParameters : Obligations.StepNeverFaultsNorChangesParameters := by
  unfold Obligations.StepNeverFaultsNorChangesParameters
  exact fun s => ⟨step_safe s, fun _ => step_cfg⟩

/-- Settles O58: the reset state is one closed state. -/
theorem resetMeetsTheInvariants : Obligations.ResetMeetsTheInvariants := by
  unfold Obligations.ResetMeetsTheInvariants
  exact ⟨by decide, rfl, rfl, rfl, rfl, rfl, rfl, rfl⟩

/-- Settles O42: both Domains are `Domain.reset`, whose registers are 0. -/
theorem resetStateIsAllZero : Obligations.ResetStateIsAllZero := by
  unfold Obligations.ResetStateIsAllZero
  refine ⟨fun d r h0 h1 => ?zero, fun d => ?ids, fun d => ?lines, rfl, rfl⟩
  case zero =>
    cases r
    case idr0 => exact absurd rfl h0
    case idr1 => exact absurd rfl h1
    all_goals cases d <;> rfl
  case ids => exact ⟨rfl, rfl⟩
  case lines => cases d <;> exact ⟨rfl, rfl⟩

end Sys2Proof.Machine
end

section
/-! SUPPORT. The commands' effects in the words of the statements: the security tag, the block of stream ids of a range, the
windows that an invalidation keeps, and what no command touches. -/

namespace Sys2Proof.Machine

/-! ### The security tag (R253) -/

/-- A tagged command without an effect, with a compatible and an incompatible tag (R253, R260, R261). -/
theorem State.runCommand_tagged_nop {s : State} (ssec : Bool) (hc : s.cfg.wf = true) :
    let t := s.runCommand (some (securityTag ssec)) fun u => u
    if (s.cur, securityTag ssec) ∈ s.cfg.secCompat then
      s.CommandSucceeds t ∧ (t.dom s.cur).steCache = (s.dom s.cur).steCache ∧ t.ctls = s.ctls
    else s.CommandFails t 1#7 := by
  intro t
  split
  next htag => exact State.runCommand_succeeds hc ((secCompatible_some_iff ..).2 htag) s.eq_withCaches_self
  next htag => exact State.runCommand_incompatible _ htag

/-! ### The block of a range (R263) -/

/-- The ids of a range are those of one aligned block (R119, R263). -/
theorem inStreamRange_iff (sid : StreamId) (range : BitVec 5) (k : Nat) :
    inStreamRange sid range k = true ↔ k / 2 ^ (range.toNat + 1) = sid.toNat / 2 ^ (range.toNat + 1) := by
  simp only [inStreamRange, Nat.shiftRight_eq_div_pow, beq_iff_eq]

/-! ### The windows that an invalidation keeps (R277, R322) -/

/-- The address of a TLB invalidate as a number (R121). -/
theorem addressOperand_toNat (a : BitVec 52) : (addressOperand a).toNat = a.toNat * 4096 := by
  have h := a.isLt
  simp only [addressOperand, BitVec.toNat_shiftLeft, BitVec.toNat_setWidth, Nat.shiftLeft_eq]
  omega

/-- The windows that an invalidation keeps: none, or those that do not contain the address. -/
def keptBy : Option Addr → Window → Bool
  | none, _ => false
  | some va, w => !w.covers va

theorem Controller.invalidateTlb_eq (c : Controller) (a : Option Addr) :
    c.invalidateTlb a = { c with win := c.win.filter (keptBy a) } := by
  cases a with
  | none =>
    have nothing : c.win.filter (keptBy none) = [] := List.filter_eq_nil_iff.2 fun _ _ h => nomatch h
    rw [nothing]
    rfl
  | some va => rfl

/-- An invalidation of the executing Domain, as a command (R255, R277). -/
theorem State.runCommand_invalidateDomain {s : State} (a : Option Addr) (hc : s.cfg.wf = true) :
    let t := s.runCommand none fun u => u.invalidateDomain u.cur a
    s.CommandSucceeds t ∧ (t.dom s.cur).steCache = (s.dom s.cur).steCache ∧ s.WindowsKept t s.cur (keptBy a) := by
  intro t
  obtain ⟨succeeds, hcache, hctls⟩ : s.CommandSucceeds t ∧ (t.dom s.cur).steCache = _ ∧ t.ctls = _ :=
    State.runCommand_succeeds hc rfl (s.invalidateDomain_eq_withCaches s.cur a)
  refine ⟨succeeds, hcache, fun k => ?_⟩
  rw [hctls, State.invalidateDomain_ctls, Assoc.get?_map]
  simp only [Controller.invalidateTlb_eq]

/-! ### What no command touches (R259, R408) -/

/-- A command leaves guest memory, both for success and for failure. -/
theorem State.runCommand_mem {s : State} (tag : Option SecurityState) {effect : State → State}
    (he : (effect s).mem = s.mem) : (s.runCommand tag effect).mem = s.mem := by
  rcases s.runCommand_cases tag effect with ⟨-, e⟩ | ⟨-, e⟩ <;> rw [e]
  · rw [State.advanceConsumer_eq, State.setDom_mem, he]
  · simp [State.commandFailed]

/-- The event queue's registers and the pulses of its line. -/
def Domain.SameEvents (D D' : Domain) : Prop :=
  D'.eventqBase = D.eventqBase ∧ D'.eventqProd = D.eventqProd ∧ D'.eventqCons = D.eventqCons
    ∧ D'.evtqPulses = D.evtqPulses

section
variable {s : State} (tag : Option SecurityState) {effect : State → State} {stes : List (Nat × Ste)}
  {ctls : List (Nat × Controller)}

/-- A command whose effect is on the caches leaves every Domain but the executing one (R417). -/
theorem State.runCommand_dom_other (he : effect s = s.withCaches stes ctls) {d : SecurityState} (hd : d ≠ s.cur) :
    (s.runCommand tag effect).dom d = s.dom d := by
  rcases s.runCommand_cases tag effect with ⟨-, e⟩ | ⟨-, e⟩ <;> rw [e]
  · rw [he, State.advanceConsumer_eq, State.setDom_dom_other _ _ hd]
    exact State.setDom_dom_other s _ hd
  · rw [State.commandFailed, State.respond_dom, State.setDom_dom_other _ _ hd]

/-- Of the executing Domain it leaves the event registers (R259). -/
theorem State.runCommand_dom_cur (he : effect s = s.withCaches stes ctls) :
    (s.dom s.cur).SameEvents ((s.runCommand tag effect).dom s.cur) := by
  rcases s.runCommand_cases tag effect with ⟨-, e⟩ | ⟨-, e⟩ <;> rw [e]
  · rw [he, State.withCaches_advanceConsumer_dom_cur]
    split <;> exact ⟨rfl, rfl, rfl, rfl⟩
  · rw [State.commandFailed, State.respond_dom, State.setDom_dom_same, Domain.takeCommandError_eq]
    exact ⟨rfl, rfl, rfl, rfl⟩

end

/-- The effect of a command leaves guest memory, and every controller of another Domain (R277, R417). -/
theorem commandEffect_frame (i : Instr) (s : State) :
    (commandEffect i s).mem = s.mem
      ∧ ∀ k c, Assoc.get? s.ctls k = some c → c.sec ≠ s.cur → Assoc.get? (commandEffect i s).ctls k = some c := by
  rcases commandEffect_cases i with h | ⟨p, h⟩ | ⟨a, h⟩ <;> rw [h]
  · exact ⟨rfl, fun _ _ hget _ => hget⟩
  · exact ⟨by simp, fun _ _ hget _ => by simpa using hget⟩
  · refine ⟨rfl, fun k c hget hsec => ?_⟩
    rw [State.invalidateDomain_ctls, Assoc.get?_map, hget, Option.map_some, if_neg hsec]

/-- The controllers after a command: those of its effect, or those of before where it fails. -/
theorem State.runCommand_ctls (s : State) (tag : Option SecurityState) (effect : State → State) :
    (s.runCommand tag effect).ctls = (effect s).ctls ∨ (s.runCommand tag effect).ctls = s.ctls := by
  rcases s.runCommand_cases tag effect with ⟨-, e⟩ | ⟨-, e⟩ <;> rw [e]
  · exact .inl (by rw [State.advanceConsumer_eq, State.setDom_ctls])
  · exact .inr (by simp [State.commandFailed])

end Sys2Proof.Machine
end

section
/-! The statements about the commands with an effect on the caches, and about what no command touches (43_commands.md). -/

namespace Sys2Proof.Machine

/-- Settles O11: both hints are tagged commands without an effect. -/
theorem prefetchHintsOnlyAdvance : Obligations.PrefetchHintsOnlyAdvance := by
  unfold Obligations.PrefetchHintsOnlyAdvance
  intro s ssec ssv sub sid size stride address i hc hi
  refine ⟨s.runCommand (some (securityTag ssec)) fun u => u, ?_, State.runCommand_tagged_nop ssec hc⟩
  rcases hi with rfl | rfl <;> rfl

/-- Settles O14: a tagged removal, of the ids of one block. -/
theorem cfgiSteRangeRemovesItsBlock : Obligations.CfgiSteRangeRemovesItsBlock := by
  unfold Obligations.CfgiSteRangeRemovesItsBlock
  intro s ssec sid range hc
  have removal := State.runCommand_eraseStes ssec (inStreamRange sid range) hc
  simp only [inStreamRange_iff] at removal
  exact ⟨_, exec_command rfl s, removal⟩

/-- Settles O15: each of the seven is the invalidation without an address, which keeps no window. -/
theorem tlbiAllEmptiesTheDomain : Obligations.TlbiAllEmptiesTheDomain := by
  unfold Obligations.TlbiAllEmptiesTheDomain
  intro s vmid asid i hc hi
  refine ⟨s.tlbiAll, ?_, State.runCommand_invalidateDomain none hc⟩
  simp only [List.mem_cons, List.not_mem_nil, or_false] at hi
  rcases hi with rfl | rfl | rfl | rfl | rfl | rfl | rfl <;> rfl

/-- Settles O16: each of the six is the invalidation by address, which keeps the windows that do not contain it. -/
theorem tlbiVaDropsTheCoveringWindows : Obligations.TlbiVaDropsTheCoveringWindows := by
  unfold Obligations.TlbiVaDropsTheCoveringWindows
  intro s vmid asid leaf address i hc hi
  have kept : keptBy (some (addressOperand address)) = fun w : Window =>
      !(decide (w.start.toNat ≤ address.toNat * 4096) && decide (address.toNat * 4096 < w.stop)) := by
    funext w
    rw [keptBy, Window.covers, addressOperand_toNat]
  rw [← kept]
  refine ⟨s.tlbiVa address, ?_, State.runCommand_invalidateDomain (some (addressOperand address)) hc⟩
  simp only [List.mem_cons, List.not_mem_nil, or_false] at hi
  rcases hi with rfl | rfl | rfl | rfl | rfl | rfl <;> rfl

/-- Settles O17: the effect is on the caches alone, and of the controllers on the executing Domain's. -/
theorem commandsStayInTheirDomain : Obligations.CommandsStayInTheirDomain := by
  unfold Obligations.CommandsStayInTheirDomain
  intro i s t hi ht
  rw [exec_command hi] at ht
  cases ht
  obtain ⟨stes, ctls, caches⟩ := commandEffect_eq_withCaches i s
  obtain ⟨hmem, hctls⟩ := commandEffect_frame i s
  have others : ∀ d, d ≠ s.cur → _ := fun d => State.runCommand_dom_other (commandTag i) caches
  refine ⟨State.runCommand_mem _ hmem, fun d => ?events, others, fun k c hget hsec => ?controllers⟩
  case events =>
    by_cases hd : d = s.cur
    · exact hd ▸ State.runCommand_dom_cur (commandTag i) caches
    · simp only [others d hd, and_self]
  case controllers =>
    rcases s.runCommand_ctls (commandTag i) (commandEffect i) with h | h <;> rw [h]
    · exact hctls k c hget hsec
    · exact hget

end Sys2Proof.Machine
end

section
/-! SUPPORT. One pass of a walk as a function of the memory, which both the loop of R211 and the steps of the block repeat;
the entries' outcomes in the words of the statements; and what an entry leaves of the Domains. -/

namespace Sys2Proof.Machine

/-! ### One pass of the walk (R211 to R218) -/

/-- What one pass of the walk's loop comes to: the parameters, the entry's fetch, the entry. -/
def Walk.pass (s : State) (w : Walk) : EntryOutcome :=
  match w.params with
  | none => .done (.noWindow .translation)
  | some (base, p) =>
    match s.fetch (w.entryAddr s.cfg base p) pteSize with
    | none => .done (.noWindow .walkFetch)
    | some bs => entryOutcome s.cfg w p (decodePteWord (BitVec.ofNat 64 (leNat bs)))

/-- Everything a pass can come to: a fault, or the outcome of some entry under the walk's parameters. -/
theorem Walk.pass_cases (s : State) (w : Walk) :
    (∃ k, w.pass s = .done (.noWindow k))
      ∨ ∃ base p i, w.params = some (base, p) ∧ w.pass s = entryOutcome s.cfg w p i := by
  unfold Walk.pass
  cases hp : w.params with
  | none => exact .inl ⟨_, rfl⟩
  | some bp =>
    dsimp only
    split
    · exact .inl ⟨_, rfl⟩
    · exact .inr ⟨_, _, _, rfl, rfl⟩

/-- The loop of R211, one pass unrolled. -/
theorem Walk.result_succ (s : State) (n : Nat) (w : Walk) :
    Walk.result s (n + 1) w =
      match w.pass s with
      | .done r => r
      | .descend next => Walk.result s n (w.descend next) := by
  rw [Walk.result, Walk.pass]
  cases w.params with
  | none => rfl
  | some bp =>
    dsimp only
    cases s.fetch (w.entryAddr s.cfg bp.1 bp.2) pteSize with
    | none => rfl
    | some bs => rfl

/-- A pass depends on the walk it is given and not on the one under way. -/
theorem Walk.pass_withWalk (s : State) (w v : Walk) : Walk.pass { s with walk := v } w = w.pass s := rfl

theorem Walk.result_withWalk (s : State) (v : Walk) (n : Nat) (w : Walk) :
    Walk.result { s with walk := v } n w = Walk.result s n w := by
  induction n generalizing w with
  | zero => rfl
  | succ n ih =>
    rw [Walk.result_succ, Walk.result_succ, Walk.pass_withWalk]
    split
    · rfl
    · exact ih _

/-- The bytes of an entry always decode (R140). -/
theorem decode_entry_readBytes (m : Memory) (a : Addr) :
    decode .pageTableEntry (Memory.readBytes m a pteSize)
      = .ok (decodePteWord (BitVec.ofNat 64 (leNat (Memory.readBytes m a pteSize)))) := by
  exact if_pos (Memory.length_readBytes m a pteSize)

/-- With parameters, an entry does its outcome to the walk (R211). -/
theorem exec_entry_of_params {s : State} {base : Addr} {p : Nat} (h : s.walk.params = some (base, p)) {i : Instr}
    (hi : i.format = .pageTableEntry) : exec i s = .next (s.walkEntry (entryOutcome s.cfg s.walk p i)) := by
  rw [exec_entry hi, State.runEntry, h]

/-- A step of a walk is one pass (log 1). -/
theorem step_eq_walkEntry_pass {s : State} (hp : s.phase = .walking) :
    step s = .next (s.walkEntry (s.walk.pass s)) := by
  rw [step_of_walking hp, stepWalk, Walk.pass]
  cases h : s.walk.params with
  | none => rfl
  | some bp =>
    dsimp only
    rcases s.fetch_cases (s.walk.entryAddr s.cfg bp.1 bp.2) pteSize with ⟨-, e⟩ | ⟨-, e⟩ <;> rw [e]
    · rfl
    · dsimp only
      rw [decode_entry_readBytes]
      exact exec_entry_of_params h (decodePteWord_spec _).1

/-- A pass goes down from a level below the last one alone (R222). -/
theorem Walk.level_lt_of_pass_descend {s : State} {w : Walk} {next : Addr} (h : w.pass s = .descend next) :
    w.level < s.cfg.maxLevel := by
  rcases w.pass_cases s with ⟨k, e⟩ | ⟨base, p, i, -, e⟩
  · cases e.symm.trans h
  · rcases entryOutcome_cases s.cfg w p i with ⟨k, e'⟩ | ⟨_, _, _, _, e'⟩ | ⟨_, hl, -⟩
    · cases (e.trans e').symm.trans h
    · cases (e.trans e').symm.trans h
    · exact hl

/-- The window of a pass is well-formed and covers the address (R60). -/
theorem Walk.window_of_pass {s : State} (hc : s.cfg.maxLevel ≤ 3) {w : Walk} {win : Window}
    (h : w.pass s = .done (.window win)) : win.wf = true ∧ win.covers w.req.va = true := by
  rcases w.pass_cases s with ⟨k, e⟩ | ⟨base, p, i, hp, e⟩
  · cases e.symm.trans h
  · exact entryOutcome_window hc hp (e.symm.trans h)

/-- The window of a whole walk is well-formed and covers the address (R60, R221, R224). -/
theorem Walk.window_of_result {s : State} (hc : s.cfg.maxLevel ≤ 3) {n : Nat} {w : Walk} {win : Window}
    (h : Walk.result s n w = .window win) : win.wf = true ∧ win.covers w.req.va = true := by
  induction n generalizing w with
  | zero => cases h
  | succ n ih =>
    rw [Walk.result_succ] at h
    split at h
    next r hpass =>
      subst h
      exact Walk.window_of_pass hc hpass
    next next hpass => exact ih (w := w.descend next) h

/-- From `k` levels above the last one, the steps of a walk end it within `k + 1` passes with the result of R211's loop;
the walk that is left has the access, the CD and the privilege of the one that began. -/
theorem run_of_walking {k : Nat} {s : State} (hp : s.phase = .walking) (hk : s.cfg.maxLevel - s.walk.level = k) :
    ∃ n w, n ≤ k + 1 ∧ w.req = s.walk.req ∧ w.cd = s.walk.cd ∧ w.priv = s.walk.priv
      ∧ Host.Core.run Sys2Proof.core n s =
        .next (State.finishWalk { s with walk := w } (Walk.result s (k + 1) s.walk)) := by
  induction k generalizing s with
  | zero =>
    refine ⟨1, s.walk, le_rfl, rfl, rfl, rfl, ?_⟩
    rw [run_succ (step_eq_walkEntry_pass hp), run_zero, Walk.result_succ]
    cases hpass : s.walk.pass s with
    | done r => rfl
    | descend next =>
      have := Walk.level_lt_of_pass_descend hpass
      omega
  | succ k ih =>
    rw [Walk.result_succ]
    cases hpass : s.walk.pass s with
    | done r =>
      refine ⟨1, s.walk, by omega, rfl, rfl, rfl, ?_⟩
      rw [run_succ (step_eq_walkEntry_pass hp), run_zero, hpass]
      rfl
    | descend next =>
      have hlevel : s.cfg.maxLevel - (s.walk.level + 1) = k := by omega
      obtain ⟨n, w, hn, hreq, hcd, hpriv, hrun⟩ := ih (s := { s with walk := s.walk.descend next }) hp hlevel
      refine ⟨n + 1, w, by omega, hreq, hcd, hpriv, ?_⟩
      rw [run_succ (step_eq_walkEntry_pass hp), hpass, State.walkEntry, hrun, Walk.result_withWalk]

/-! ### The entries' outcomes (R219 to R229) -/

theorem blockForbidden_iff (level p : Nat) : blockForbidden level p = true ↔ level > 2 ∨ (level = 1 ∧ p ≠ 12) := by
  simp [blockForbidden]

/-- The permissions of a page (R143, R225). -/
theorem pagePerms_eq (ap : BitVec 2) (pxn uxn priv : Bool) :
    (pagePerms ap pxn uxn priv).read = (priv || decide (ap = 0b01#2) || decide (ap = 0b11#2))
      ∧ (pagePerms ap pxn uxn priv).write = (decide (ap = 0b01#2) || (priv && decide (ap = 0b00#2)))
      ∧ (pagePerms ap pxn uxn priv).exec = !(if priv then pxn else uxn) := by
  have low : ∀ x : BitVec 2, x.getLsbD 0 = (decide (x = 0b01#2) || decide (x = 0b11#2)) := by decide
  have high : ∀ x : BitVec 2, (!x.getLsbD 1) = (decide (x = 0b01#2) || decide (x = 0b00#2)) := by decide
  cases priv
  · exact ⟨low ap, (Bool.or_false _).symm, rfl⟩
  · exact ⟨rfl, high ap, rfl⟩

/-! ### What an entry leaves of the Domains (R408) -/

/-- Of every Domain, only EVENTQ_PROD and the pulses may differ. -/
def State.SameButEvents (s t : State) : Prop :=
  ∀ d, t.dom d = { s.dom d with eventqProd := (t.dom d).eventqProd, evtqPulses := (t.dom d).evtqPulses }

theorem State.SameButEvents.of_dom_eq {s t : State} (h : ∀ d, t.dom d = s.dom d) : s.SameButEvents t := by
  intro d
  rw [h d]

theorem State.SameButEvents.trans {s t u : State} (h : s.SameButEvents t) (h' : t.SameButEvents u) :
    s.SameButEvents u := by
  intro d
  rw [h' d, h d]

theorem State.signalEvent_sameButEvents (s : State) (d : SecurityState) (e : Event) (b : Bool) :
    s.SameButEvents (s.signalEvent d e b) := s.signalEvent_dom d e b

/-- The end of an access changes a Domain by its permission event alone. -/
theorem State.finishAccess_sameButEvents (s : State) (r : Request) (w : Option Window) :
    s.SameButEvents (s.finishAccess r w) := by
  have fault : s.SameButEvents (s.permissionFault r) := s.signalEvent_sameButEvents _ _ _
  unfold State.finishAccess
  split
  · rcases s.softwareFinish_cases r w with ⟨-, e⟩ | ⟨v, -, -, e⟩ | ⟨v, -, -, e⟩ <;> rw [e]
    · exact .of_dom_eq (by simp)
    · exact .of_dom_eq (by simp)
    · exact fault.trans (.of_dom_eq (by simp))
  · rcases s.hardwareFinish_cases r w with ⟨-, e⟩ | ⟨v, -, e⟩ <;> rw [e]
    · exact .of_dom_eq (by simp)
    · split
      · exact .of_dom_eq (by simp)
      · exact fault.trans (.of_dom_eq (by simp))

/-- The end of a walk changes a Domain by its events alone. -/
theorem State.finishWalk_sameButEvents (s : State) (r : WalkResult) : s.SameButEvents (s.finishWalk r) := by
  cases r with
  | window w => exact s.finishAccess_sameButEvents _ _
  | noWindow k => exact (s.signalEvent_sameButEvents _ _ _).trans (State.finishAccess_sameButEvents _ _ _)

/-- So does every entry. -/
theorem exec_entry_sameButEvents {i : Instr} (hi : i.format = .pageTableEntry) {s t : State} (h : exec i s = .next t) :
    s.SameButEvents t := by
  rw [exec_entry hi] at h
  cases h
  rcases s.runEntry_cases (fun p => entryOutcome s.cfg s.walk p i) with
    ⟨-, e⟩ | ⟨_, _, r, -, -, e⟩ | ⟨_, _, next, -, -, e⟩ <;> rw [e]
  · exact s.finishWalk_sameButEvents _
  · exact s.finishWalk_sameButEvents r
  · exact .of_dom_eq fun d => by cases d <;> rfl

end Sys2Proof.Machine
end

section
/-! The statements about the page-table entries and the walk as a whole (42_page_table_walker.md). -/

namespace Sys2Proof.Machine

/-- Settles O19: by where a Block may stand, then by its output address. -/
theorem blockEntryEndsTheWalk : Obligations.BlockEntryEndsTheWalk := by
  unfold Obligations.BlockEntryEndsTheWalk
  intro s ap pxn uxn oa attrs base p out mask hp
  have violation : addrSizeViolation s.cfg s.walk.cd oa = true ↔ out &&& mask ≠ 0#64 := addrSizeViolation_iff ..
  rw [exec_entry_of_params hp rfl]
  simp only [entryOutcome, blockOutcome, blockForbidden_iff, violation]
  split
  next => rw [State.walkEntry, State.finishWalk_noWindow]
  next =>
    split
    next => rw [State.walkEntry, State.finishWalk_noWindow]
    next =>
      refine ⟨_, ?_, rfl, rfl⟩
      rw [outputAddressOf_eq]
      exact alignedWindow_isAligned ..

/-- Settles O20: by the output address; the walk goes down since its level is not the last. -/
theorem tableEntryBelowLastLevelDescends : Obligations.TableEntryBelowLastLevelDescends := by
  unfold Obligations.TableEntryBelowLastLevelDescends
  intro s ap pxn uxn oa attrs hier base p out mask hp hl
  have violation : addrSizeViolation s.cfg s.walk.cd oa = true ↔ out &&& mask ≠ 0#64 := addrSizeViolation_iff ..
  rw [exec_entry_of_params hp rfl]
  simp only [entryOutcome, tableOutcome, violation, hl, if_true]
  split
  next => rw [State.walkEntry, State.finishWalk_noWindow]
  next => rw [State.walkEntry, outputAddressOf_eq]; rfl

/-- Settles O21: by the output address; the entry is a page since the walk's level is the last. -/
theorem tableEntryAtLastLevelIsAPage : Obligations.TableEntryAtLastLevelIsAPage := by
  unfold Obligations.TableEntryAtLastLevelIsAPage
  intro s ap pxn uxn oa attrs hier base p out mask hp hl
  have violation : addrSizeViolation s.cfg s.walk.cd oa = true ↔ out &&& mask ≠ 0#64 := addrSizeViolation_iff ..
  obtain ⟨read, write, execute⟩ := pagePerms_eq ap pxn uxn s.walk.priv
  rw [exec_entry_of_params hp rfl]
  simp only [entryOutcome, tableOutcome, violation, hl, lt_irrefl, if_false]
  split
  next => rw [State.walkEntry, State.finishWalk_noWindow]
  next =>
    refine ⟨_, ?_, read, write, execute, rfl⟩
    rw [outputAddressOf_eq]
    exact alignedWindow_isAligned ..

/-- Settles O23: by induction on the levels left, each step being one pass of the loop. -/
theorem stepsOfAWalkAreTheWalk : Obligations.StepsOfAWalkAreTheWalk := by
  unfold Obligations.StepsOfAWalkAreTheWalk
  exact fun s hp _ => run_of_walking hp rfl

/-- Settles O24: by induction on the passes; the window is that of one entry. -/
theorem walkWindowCoversItsAddress : Obligations.WalkWindowCoversItsAddress := by
  unfold Obligations.WalkWindowCoversItsAddress
  intro s n w win hc h
  have hmax : s.cfg.maxLevel ≤ 3 := by simp_all [Config.wf]
  obtain ⟨hwf, hcovers⟩ := Walk.window_of_result hmax h
  simp only [Window.wf, Window.covers, Bool.and_eq_true, decide_eq_true_eq] at hwf hcovers
  exact ⟨hcovers.1, hcovers.2, hwf.2⟩

/-- Settles O60: an entry changes a Domain by its events alone. -/
theorem walksRaiseNoCommandError : Obligations.WalksRaiseNoCommandError := by
  unfold Obligations.WalksRaiseNoCommandError
  intro i s t hi ht d
  rw [exec_entry_sameButEvents hi ht d]
  exact ⟨rfl, rfl, rfl, rfl, rfl, rfl⟩

end Sys2Proof.Machine
end

section
/-! SUPPORT. The controllers in the words of the statements: the end of an access that has a window, the window that serves
an access, and an access by its controller's back-end, windows and skip flag; and the write to CMDQ_CONS. -/

namespace Sys2Proof.Machine

/-! ### Windows and permission events (R325, R326, R331) -/

theorem Controller.addWindow_eq (w : Window) (c : Controller) :
    Controller.addWindow w c = { c with win := if w ∈ c.win then c.win else c.win ++ [w] } := by
  simp only [Controller.addWindow, List.contains_iff_mem]
  split <;> rfl

/-- The permission event of an access, with the privilege of the stream's cached STE (R326, R396). -/
def State.permissionEvent (s : State) (r : Request) : Event :=
  makeEvent .permission r.sid r.va r.kind
    ((Assoc.get? (s.dom r.sec).steCache r.sid.toNat).elim true (fun ste => decide (ste.privCfg ≠ .unprivileged)))

theorem State.permissionFault_eq (s : State) (r : Request) :
    s.permissionFault r = s.signalEvent r.sec (s.permissionEvent r) true := by
  rw [State.permissionFault, cachedPriv_eq, State.permissionEvent]

/-- An event that is not recorded changes nothing (R301). -/
theorem State.signalEvent_false (s : State) (d : SecurityState) (e : Event) : s.signalEvent d e false = s :=
  State.signalEvent_of_suppressed e rfl

/-! ### The end of an access that has a window (R325, R332) -/

/-- The software controller caches the window and judges by it (R325). -/
theorem State.finishAccess_software {s : State} {r : Request} (h : r.backend = .software) (w : Window) :
    s.finishAccess r (some w) =
      if w.permits r.kind = true then (s.modifyCtl r.sid (Controller.addWindow w)).respond (.allow (r.va + w.offset))
      else ((s.signalEvent r.sec (s.permissionEvent r) true).modifyCtl r.sid (Controller.addWindow w)).respond .deny := by
  rw [Window.permits_eq, ← State.permissionFault_eq, State.finishAccess, h]
  rcases s.softwareFinish_cases r (some w) with ⟨hw, -⟩ | ⟨v, hw, hperm, e⟩ | ⟨v, hw, hperm, e⟩ <;> cases hw
  · rw [if_pos hperm]
    exact e
  · rw [if_neg (by simp [hperm])]
    exact e

/-- What the first phase of the fault hook does to the controller (R332, R333). -/
def Controller.install (always : Bool) (w : Window) (kind : AccessKind) (c : Controller) : Controller :=
  { c with
    win := if w ∈ c.win then c.win else c.win ++ [w]
    skipped := c.skipped || !w.permits kind || always }

/-- The hardware-assisted controller installs the window, records a violation and asks for a retry (R332). -/
theorem State.finishAccess_hardwareAssisted {s : State} {r : Request} (h : r.backend = .hardwareAssisted) (w : Window) :
    s.finishAccess r (some w) =
      ((s.signalEvent r.sec (s.permissionEvent r) (!w.permits r.kind)).modifyCtl r.sid
        (Controller.install (decide (s.cfg.skipSetOn = .everySuccessfulWalk)) w r.kind)).respond .retry := by
  rw [State.finishAccess, h]
  rcases s.hardwareFinish_cases r (some w) with ⟨hw, -⟩ | ⟨v, hw, e⟩ <;> cases hw
  have event : (if w.perms.has r.kind then s else s.permissionFault r)
      = s.signalEvent r.sec (s.permissionEvent r) (!w.permits r.kind) := by
    rw [Window.permits_eq]
    cases w.perms.has r.kind with
    | true => exact (s.signalEvent_false _ _).symm
    | false => exact s.permissionFault_eq r
  have installed : (fun c => if w.perms.has r.kind = false ∨ s.cfg.skipSetOn = .everySuccessfulWalk
      then Controller.setSkipped true (Controller.addWindow w c) else Controller.addWindow w c)
      = Controller.install (decide (s.cfg.skipSetOn = .everySuccessfulWalk)) w r.kind := by
    funext c
    rw [Controller.addWindow_eq, Controller.install, Window.permits_eq]
    by_cases always : s.cfg.skipSetOn = .everySuccessfulWalk <;> cases w.perms.has r.kind <;>
      simp [always, Controller.setSkipped]
  rw [event, installed] at e
  exact e

/-! ### The window that serves an access (U8, log 7) -/

theorem mem_of_pickWindow {n : Nat} {ws : List Window} {w : Window} (h : pickWindow n ws = some w) : w ∈ ws := by
  match ws, h with
  | [_], h => cases h; exact List.mem_singleton_self w
  | v :: v' :: vs, h =>
    have hlt : Config.overlapChoice n % (vs.length + 2) < (v :: v' :: vs).length := Nat.mod_lt _ (by omega)
    cases h
    rw [List.getD_eq_getElem _ _ hlt]
    exact List.getElem_mem hlt

/-- A window serves the access exactly if there is one (U8). -/
theorem pickWindow_eq_none_iff (n : Nat) (ws : List Window) : pickWindow n ws = none ↔ ws = [] := by
  match ws with
  | [] => exact ⟨fun _ => rfl, fun _ => rfl⟩
  | [v] => exact ⟨fun h => (by cases h), fun h => (by cases h)⟩
  | v :: v' :: vs => exact ⟨fun h => (by cases h), fun h => (by cases h)⟩

theorem exists_pickWindow {n : Nat} {ws : List Window} (h : ∃ w, w ∈ ws) : ∃ w ∈ ws, pickWindow n ws = some w := by
  obtain ⟨v, hv⟩ := h
  cases hpick : pickWindow n ws with
  | none => rw [(pickWindow_eq_none_iff n ws).1 hpick] at hv; cases hv
  | some w => exact ⟨w, mem_of_pickWindow hpick, rfl⟩

theorem pickWindow_eq_none {n : Nat} {ws : List Window} (h : ¬∃ w, w ∈ ws) : pickWindow n ws = none :=
  (pickWindow_eq_none_iff n ws).2 (List.eq_nil_iff_forall_not_mem.2 fun w hw => h ⟨w, hw⟩)

/-! ### An access by its controller (R320, R323, R325, R330, R332) -/

section
variable {s : State} {master : Nat} {va : Addr} {kind : AccessKind} {c : Controller}

theorem State.perform_access_of_registered (h : Assoc.get? s.ctls (s.streamFor master).toNat = some c) :
    s.perform (.access master va kind) = .next (State.access { s with response := .none } c va kind) := by
  have hctl : s.ctl? (streamOfMaster s.cfg master) = some c := h
  simp only [State.perform, hctl]

theorem State.access_of_disabled (h : c.enabled = false) : s.access c va kind = s.respond (.allow va) := by
  simp only [State.access, h, Bool.false_eq_true, if_false]

theorem State.access_of_software (h : c.enabled = true) (hb : c.backend = .software) :
    s.access c va kind = s.softwareAccess c va kind := by
  simp only [State.access, h, hb, if_true]

theorem State.access_of_hardwareAssisted (h : c.enabled = true) (hb : c.backend = .hardwareAssisted) :
    s.access c va kind = s.hardwareAccess c va kind := by
  simp only [State.access, h, hb, if_true]

/-- In the software back-end a covering window judges the access (R325). -/
theorem State.softwareAccess_of_hit (h : ∃ w, w ∈ c.win ∧ w.Contains va) :
    ∃ w n, (w ∈ c.win ∧ w.Contains va)
      ∧ s.softwareAccess c va kind = State.judge { s with freeCount := n } (c.request va kind true) w := by
  simp only [← Controller.mem_hits] at h ⊢
  obtain ⟨w, hw, hpick⟩ := exists_pickWindow (n := s.freeCount) h
  exact ⟨w, _, hw, by simp only [State.softwareAccess, hpick]; rfl⟩

/-- In the software back-end a miss is translated (R325). -/
theorem State.softwareAccess_of_miss (h : ¬∃ w, w ∈ c.win ∧ w.Contains va) :
    s.softwareAccess c va kind = s.beginTranslate (c.request va kind true) := by
  simp only [← Controller.mem_hits] at h
  simp only [State.softwareAccess, pickWindow_eq_none h]

/-- In the hardware-assisted back-end a covering window that permits the kind serves the access (R330). -/
theorem State.hardwareAccess_of_hit (h : ∃ w, (w ∈ c.win ∧ w.Contains va) ∧ w.permits kind = true) :
    ∃ w n, (w ∈ c.win ∧ w.Contains va) ∧ w.permits kind = true
      ∧ s.hardwareAccess c va kind = State.respond { s with freeCount := n } (.allow (va + w.offset)) := by
  simp only [and_assoc, ← Controller.mem_permittingHits] at h
  obtain ⟨w, hw, hpick⟩ := exists_pickWindow (n := s.freeCount) h
  obtain ⟨hmem, hcontains, hpermits⟩ := (c.mem_permittingHits va kind w).1 hw
  exact ⟨w, _, ⟨hmem, hcontains⟩, hpermits, by simp only [State.hardwareAccess, hpick]; rfl⟩

/-- In the hardware-assisted back-end every other access calls the fault hook (R330). -/
theorem State.hardwareAccess_of_miss (h : ¬∃ w, (w ∈ c.win ∧ w.Contains va) ∧ w.permits kind = true) :
    s.hardwareAccess c va kind = s.faultHook c va kind := by
  simp only [and_assoc, ← Controller.mem_permittingHits] at h
  simp only [State.hardwareAccess, pickWindow_eq_none h]

/-- The first phase of the fault hook translates, and records (R332). -/
theorem State.faultHook_first (h : c.skipped = false) :
    s.faultHook c va kind = s.beginTranslate (c.request va kind true) := by
  simp [State.faultHook, h]

/-- The second phase clears the flag and aborts (R332, R334). -/
theorem State.faultHook_second (h : c.skipped = true) :
    s.faultHook c va kind = (s.modifyCtl c.sid (Controller.setSkipped false)).respond .externalAbort := by
  simp only [State.faultHook, h, if_true]

/-- With the skip flag set, an access that no window permits is aborted (R332, R336). -/
theorem State.perform_access_of_skipped (h : Assoc.get? s.ctls (s.streamFor master).toNat = some c)
    (hen : c.enabled = true) (hb : c.backend = .hardwareAssisted) (hskip : c.skipped = true)
    (hmiss : ¬∃ w ∈ c.win, w.Contains va ∧ w.permits kind = true) :
    s.perform (.access master va kind) =
      .next ((s.modifyCtl c.sid (Controller.setSkipped false)).respond .externalAbort) := by
  simp only [← and_assoc] at hmiss
  rw [State.perform_access_of_registered h, State.access_of_hardwareAssisted hen hb,
    State.hardwareAccess_of_miss hmiss, State.faultHook_second hskip]
  rfl

end

/-- A judgement by a window (R325): the Domains and memory of one permission event, or nothing. -/
theorem State.judge_eq (s : State) (r : Request) (w : Window) :
    s.judge r w = if w.permits r.kind = true then s.respond (.allow (r.va + w.offset))
      else (s.signalEvent r.sec (s.permissionEvent r) true).respond .deny := by
  rw [Window.permits_eq, ← State.permissionFault_eq]
  rfl

/-- A judgement, in a state whose answer and free values alone have changed (R325, R326). -/
theorem State.judge_withFree (s : State) (x : Response) (n : Nat) (r : Request) (w : Window) :
    let t := State.judge { s with response := x, freeCount := n } r w
    t.phase = .idle ∧ t.ctls = s.ctls ∧ t.inputs = s.inputs ∧ (∀ d, (t.dom d).steCache = (s.dom d).steCache)
      ∧ if w.permits r.kind = true then t.response = .allow (r.va + w.offset) ∧ t.mem = s.mem ∧ ∀ d, t.dom d = s.dom d
        else t.response = .deny ∧ t.mem = (s.signalEvent r.sec (s.permissionEvent r) true).mem
          ∧ ∀ d, t.dom d = (s.signalEvent r.sec (s.permissionEvent r) true).dom d := by
  have same : ∀ d, State.dom { s with response := x, freeCount := n } d = s.dom d := by
    rintro (_ | _) <;> rfl
  have event : State.permissionEvent { s with response := x, freeCount := n } r = s.permissionEvent r := by
    rw [State.permissionEvent, same, State.permissionEvent]
  obtain ⟨hmem, hdom⟩ := State.signalEvent_congr (s := { s with response := x, freeCount := n }) (u := s)
    rfl rfl rfl rfl rfl r.sec (s.permissionEvent r) true
  dsimp only
  rw [State.judge_eq, event]
  split
  next =>
    exact ⟨rfl, rfl, rfl, fun d => congrArg Domain.steCache (same d), rfl, rfl, same⟩
  next =>
    simp only [State.respond_dom]
    refine ⟨rfl, by simp, by simp, fun d => ?_, rfl, hmem, hdom⟩
    exact (congrArg Domain.steCache ((hdom d).trans (s.signalEvent_dom r.sec (s.permissionEvent r) true d)) :)

end Sys2Proof.Machine

namespace Sys2Proof

/-! ### CMDQ_CONS (R369) -/

/-- A field of a masked value is the value's, where the mask has the whole field. -/
theorem Field.get_and_mask {w n : Nat} (f : Field w) (x : BitVec n) {m : BitVec n} (h : f.get m = BitVec.allOnes w) :
    f.get (x &&& m) = f.get x := by
  have bits := congrArg BitVec.getLsbD h
  apply BitVec.eq_of_getLsbD_eq
  intro i hi
  have bit := congrFun bits i
  simp [Field.get, hi] at bit ⊢
  simp [bit]

/-- A field in the low half of a value. -/
theorem Field.get_setWidth {w : Nat} (f : Field w) (v : BitVec 64) (h : f.lo + w ≤ 32) :
    f.get (v.setWidth 32 : BitVec 32) = f.get v := by
  apply BitVec.eq_of_getLsbD_eq
  intro i hi
  have hlow : f.lo + i < 32 := by omega
  simp [Field.get, hi, hlow]

end Sys2Proof
end

section
/-! The statements about the stream controllers, and about the write to CMDQ_CONS (45_stream_controllers.md,
46_register_interface.md). -/

namespace Sys2Proof.Machine

/-- Settles O25: by whether the window permits the kind; either way the window has been cached. -/
theorem softwareControllerJudgesByTheWindow : Obligations.SoftwareControllerJudgesByTheWindow := by
  unfold Obligations.SoftwareControllerJudgesByTheWindow
  intro s r w hb t priv e
  have finished : t = _ := State.finishAccess_software hb w
  have event : s.permissionEvent r = e := rfl
  have cached : ∀ k, Assoc.get? (Assoc.modify s.ctls r.sid.toNat (Controller.addWindow w)) k =
      if k = r.sid.toNat then
        (Assoc.get? s.ctls k).map (fun c => { c with win := if w ∈ c.win then c.win else c.win ++ [w] })
      else Assoc.get? s.ctls k := by
    intro k
    rw [Assoc.get?_modify, funext (Controller.addWindow_eq w)]
  cases hperm : w.permits r.kind with
  | true =>
    rw [if_pos hperm] at finished
    rw [finished]
    exact ⟨cached, ⟨rfl, rfl, rfl, rfl, rfl, rfl⟩, rfl, rfl, fun _ => rfl, fun d => by simp⟩
  | false =>
    rw [if_neg (by simp [hperm]), event] at finished
    rw [finished]
    refine ⟨by simpa using cached, by simp [State.SameRest], rfl, ?_⟩
    exact ⟨rfl, rfl, fun d => by simp⟩

/-- Settles O26: the window's installation, the event of a violation, and the retry are one equation. -/
theorem firstFaultInstallsAndRetries : Obligations.FirstFaultInstallsAndRetries := by
  unfold Obligations.FirstFaultInstallsAndRetries
  intro s r w c hb hget t priv e
  have finished : t = _ := State.finishAccess_hardwareAssisted hb w
  rw [finished]
  refine ⟨rfl, rfl, by simp [State.SameRest], fun k => ?controllers, rfl, fun d => by simp [State.permissionEvent, e, priv]⟩
  case controllers =>
    simp only [State.respond_ctls, State.modifyCtl_ctls, State.signalEvent_ctls, Assoc.get?_modify]
    by_cases hk : k = r.sid.toNat
    · rw [if_pos hk, if_pos hk, hk, hget]
      rfl
    · rw [if_neg hk, if_neg hk]

/-- Settles O27: the access is the second phase of the fault hook, which reaches one flag of one controller. -/
theorem secondFaultAbortsWithoutAWalk : Obligations.SecondFaultAbortsWithoutAWalk := by
  unfold Obligations.SecondFaultAbortsWithoutAWalk
  intro s master va kind c hget hsid hen hb hskip hmiss
  refine ⟨_, State.perform_access_of_skipped hget hen hb hskip hmiss, rfl, rfl, ⟨rfl, rfl, rfl, rfl, rfl, rfl⟩,
    fun _ => rfl, fun d => by simp, fun k => ?controllers⟩
  case controllers =>
    rw [State.respond_ctls, State.modifyCtl_ctls, Assoc.get?_modify]
    have hget' : Assoc.get? s.ctls c.sid.toNat = some c := hsid ▸ hget
    by_cases hk : k = c.sid.toNat
    · rw [if_pos hk, if_pos hk, hk, hget']
      rfl
    · rw [if_neg hk, if_neg hk]

/-- Settles O28: the first fault is O26's, and leaves a controller whose flag is set and whose windows, the new one too, do
not permit the access; so the second is O27's. -/
theorem twoFaultsAbortOnTheSecond : Obligations.TwoFaultsAbortOnTheSecond := by
  unfold Obligations.TwoFaultsAbortOnTheSecond
  intro s master r w c hb hsid hget hcsid hcb hen hmiss hperm t priv e
  obtain ⟨hretry, -, ⟨hcfg, -⟩, hctls, hmem, hdom⟩ := firstFaultInstallsAndRetries s r w c hb hget
  rw [hperm] at hmem hdom
  have hget' := hctls r.sid.toNat
  have stream : r.sid = t.streamFor master := by rw [hsid, State.streamFor, State.streamFor, hcfg]
  rw [if_pos rfl, stream] at hget'
  refine ⟨hretry, hmem, hdom, _, State.perform_access_of_skipped hget' hen hcb (by simp [hperm]) ?_, rfl, rfl,
    fun d => by simp⟩
  rintro ⟨v, hv, hcontains, hpermits⟩
  have installed : v ∈ c.win ∨ v = w := by
    dsimp only at hv
    split at hv
    · exact .inl hv
    · simpa using hv
  rcases installed with hold | rfl
  · exact hmiss ⟨v, hold, hcontains, hpermits⟩
  · rw [hperm] at hpermits
    cases hpermits

/-- Settles O29: a disabled controller answers at once. -/
theorem disabledControllerPassesThrough : Obligations.DisabledControllerPassesThrough := by
  unfold Obligations.DisabledControllerPassesThrough
  intro s master va kind c hget hen
  rw [State.perform_access_of_registered hget, State.access_of_disabled hen]
  rfl

/-- Settles O30: by the back-end and by whether a window serves the access. -/
theorem cachedWindowServesTheAccess : Obligations.CachedWindowServesTheAccess := by
  unfold Obligations.CachedWindowServesTheAccess
  intro s master va kind c hget hen covering priv e translated
  rw [State.perform_access_of_registered hget]
  refine ⟨fun hb hhit => ?judged, fun hb hmiss => ?softwareMiss, fun hb hhit => ?served, fun hb hmiss hskip => ?hook⟩
  case judged =>
    rw [State.access_of_software hen hb]
    obtain ⟨w, n, hcovers, access⟩ :=
      State.softwareAccess_of_hit (s := { s with response := .none }) (kind := kind) hhit
    exact ⟨w, _, hcovers, congrArg _ access, s.judge_withFree .none n (c.request va kind true) w⟩
  case softwareMiss =>
    rw [State.access_of_software hen hb, State.softwareAccess_of_miss hmiss]
    rfl
  case served =>
    rw [State.access_of_hardwareAssisted hen hb]
    obtain ⟨w, n, hcovers, hpermits, access⟩ :=
      State.hardwareAccess_of_hit (s := { s with response := .none }) (kind := kind) hhit
    exact ⟨w, n, hcovers, hpermits, congrArg _ access⟩
  case hook =>
    rw [State.access_of_hardwareAssisted hen hb, State.hardwareAccess_of_miss hmiss, State.faultHook_first hskip]
    rfl

/-- Settles O46: one Domain's CMDQ_CONS is replaced, and both fields lie under the register's mask. -/
theorem consumeWriteOnlyMovesTheIndex : Obligations.ConsumeWriteOnlyMovesTheIndex := by
  unfold Obligations.ConsumeWriteOnlyMovesTheIndex
  intro s d v
  obtain ⟨hphase, -, hmem, hrest, hctls⟩ := s.respond_setDom_frame d
    { s.dom d with cmdqCons := v.setWidth 32 &&& registerMask .cmdqCons }
  refine ⟨_, rfl, hphase, ?index, ?code, ?domain, fun d' hd => State.respond_setDom_dom_other s _ _ hd, hmem, hrest, hctls⟩
  case index =>
    rw [State.regWrite, State.respond_setDom_dom_same]
    exact (Field.get_and_mask RegField.index _ (by decide)).trans (Field.get_setWidth _ v (by decide))
  case code =>
    rw [State.regWrite, State.respond_setDom_dom_same]
    exact (Field.get_and_mask RegField.err _ (by decide)).trans (Field.get_setWidth _ v (by decide))
  case domain => rw [State.regWrite, State.respond_setDom_dom_same]

end Sys2Proof.Machine
end
